-- ==== Sys2Proof/Word.lean ====
section
/-! DEFINITION. The machine's word types (00_scope.md R5, R6: XLEN is 64, bit 0 is the least significant bit). -/

namespace Sys2Proof

/-- A value of `XLEN` = 64 bits: a CSR, an `x` register, the `pc` (R20, R15, R14). -/
abbrev Word := BitVec 64

/-- One byte of memory (R100). -/
abbrev Byte := BitVec 8

/-- A general register number, bits 19:15 or 11:7 of an instruction (R122). -/
abbrev RegNum := BitVec 5

/-- A CSR address (R16). -/
abbrev CsrAddr := BitVec 12

end Sys2Proof
end

