-- ==== Sys2Proof/Config.lean ====
section
/-! DEFINITION. What an implementation fixes (the parameters of 00_scope.md R5) and the free values (`draw` of
00_scope.md R7). A free value is an `opaque` constant with no body: nothing can be proved of what it is.

The parameters are arguments of the model (R5): every state carries its own `Params` in its field `par`, no step
changes them, and a statement about every state is a statement about every setting of them. -/

namespace Sys2Proof

/-- The settings of the trap value (60_exceptions.md R194): a free choice per trap between the informative value
and 0, or one of the two fixed. -/
inductive TrapValueSetting where
  | free | exact | zero
  deriving DecidableEq, Repr

/-- The settings of a read of the unnamed `mstatus` bits (10_state.md R50): free bits, or `SD` computed and the
rest 0. -/
inductive UnnamedBitsSetting where
  | free | standard
  deriving DecidableEq, Repr

/-- The settings of the debug and trace registers (10_state.md section 8): reads are free values, or the registers
read 0 and ignore writes. -/
inductive TriggerSetting where
  | free | noTriggers
  deriving DecidableEq, Repr

/-- The parameters of R5, and the settings the rules name. -/
structure Params where
  /-- `HAS_C`. -/
  hasC : Bool
  /-- `NHPM`, 0 to 29. -/
  nhpm : Nat
  /-- `MVENDORID`, 32 bits (R78). -/
  mvendorid : BitVec 32
  /-- `MARCHID` (R79). -/
  marchid : Word
  /-- `MIMPID` (R80). -/
  mimpid : Word
  /-- `MHARTID` (R81). -/
  mhartid : Word
  /-- `MCONFIGPTR` (R82). -/
  mconfigptr : Word
  /-- `MISA_VALUE` (R51). -/
  misa : Word
  /-- `RESET_VECTOR` (R230). -/
  resetVector : Word
  /-- `BIG_ENDIAN_SUPPORTED` (R43, R102). -/
  bigEndian : Bool
  /-- `MTVEC_BASE_MASK` (R55): the writable bits of `BASE`, at their places in the register. -/
  mtvecBaseMask : Word
  /-- `STVEC_BASE_MASK` (R31). -/
  stvecBaseMask : Word
  /-- `MTVAL_SW_WRITABLE` (R63, R36). -/
  mtvalWritable : Bool
  /-- `SIE_GATES_U` (R187). -/
  sieGatesU : Bool
  /-- `TW_LIMIT` (R164). -/
  twLimit : Nat
  /-- `MISALIGNED_TRAPS` (R103): no instruction in scope makes a data access, so nothing reads it (log 26). -/
  misalignedTraps : Bool
  /-- `PLATFORM_IRQ_MASK` (R54, R182). -/
  platformIrqMask : Word
  /-- The setting of the trap value (R194). -/
  trapValue : TrapValueSetting
  /-- The setting of the unnamed `mstatus` bits (R50). -/
  unnamedBits : UnnamedBitsSetting
  /-- The setting of the debug and trace registers (section 8 of 10_state.md). -/
  triggers : TriggerSetting
  deriving DecidableEq, Repr

/-! ## The parameters the spec leaves OPEN, at reset -/

/-- `HAS_C`, OPEN. -/
opaque Config.hasC : Bool
/-- `NHPM`, OPEN, 0 to 29. -/
opaque Config.hpmCount : Fin 30
/-- `MVENDORID`, OPEN. -/
opaque Config.vendorId : BitVec 32
/-- `MARCHID`, OPEN. -/
opaque Config.archId : Word
/-- `MIMPID`, OPEN. -/
opaque Config.impId : Word
/-- `MHARTID`, OPEN. -/
opaque Config.hartId : Word
/-- `MCONFIGPTR`, OPEN. -/
opaque Config.configPtr : Word
/-- The extension letters of `MISA_VALUE`, OPEN but for those R51 and D30 fix. -/
opaque Config.misaLetters : BitVec 26
/-- `SIE_GATES_U`, OPEN (90_conflicts.md C2). -/
opaque Config.sieGatesU : Bool
/-- `TW_LIMIT`, OPEN. -/
opaque Config.twLimit : Nat

/-- `MISALIGNED_TRAPS`, OPEN. -/
opaque Config.misalignedTraps : Bool

/-- `MISA_VALUE` from the letters: `MXL` = 2, bits 5 (F), 8 (I), 18 (S), 20 (U) set, bit 2 = `HAS_C` (R51, D30). -/
def Config.misaValue (hasC : Bool) (letters : BitVec 26) : Word :=
  0x8000000000140120#64 ||| (letters.zeroExtend 64 &&& ~~~4#64) ||| (if hasC then 4#64 else 0#64)

/-- `RESET_VECTOR` of `State.reset`. DESIGN CHOICE (log 3): the spec leaves it OPEN; this is the value its own
program A takes (95_test_vectors.md section 3). -/
def Config.resetVector : Word := 0x80000000#64

/-- The parameters of `State.reset`: the spec's decisions where it took one (R5, 92_eei_decisions.md), the opaque
constants above where it leaves the parameter OPEN, the free setting of the trap value and of the debug registers (log 6),
and the setting "standard" of the unnamed `mstatus` bits (log 12). -/
def Config.params : Params where
  hasC := Config.hasC
  nhpm := Config.hpmCount.val
  mvendorid := Config.vendorId
  marchid := Config.archId
  mimpid := Config.impId
  mhartid := Config.hartId
  mconfigptr := Config.configPtr
  misa := Config.misaValue Config.hasC Config.misaLetters
  resetVector := Config.resetVector
  bigEndian := false
  mtvecBaseMask := 0xFFFFFFFFFFFFFFFC#64
  stvecBaseMask := 0xFFFFFFFFFFFFFFFC#64
  mtvalWritable := false
  sieGatesU := Config.sieGatesU
  twLimit := Config.twLimit
  misalignedTraps := Config.misalignedTraps
  platformIrqMask := 0#64
  trapValue := .free
  unnamedBits := .standard
  triggers := .free

/-! ## Free values

The first `Nat` argument is the step's draw index (`State.draws`), so that every step draws afresh. -/

/-- What `mtvec` and `stvec` hold after reset (R85, R201: unspecified), before their `MODE` is made legal. -/
opaque Config.mtvecAtReset : Word
opaque Config.stvecAtReset : Word
/-- The unnamed bits a read of `mstatus` or `sstatus` returns (R50). -/
opaque Config.statusBits : Nat → Word
/-- What a read of the debug register at this address, holding this value, returns (section 8 of 10_state.md). -/
opaque Config.debugRead : Nat → CsrAddr → Word → Word
/-- How far `time` moves before a step; never back (R26). -/
opaque Config.timeAdvance : Nat → Nat
/-- How many cycles beyond one a step takes (R75, R83). -/
opaque Config.extraCycles : Nat → Nat
/-- How many events counter `N` counts in a step (R77, R83); the second argument is `N`. -/
opaque Config.hpmEvents : Nat → Nat → Nat
/-- Whether a trap writes the informative value rather than 0 (R194). -/
opaque Config.trapValueKept : Nat → Bool
/-- Whether a non-zero write to the register at this address (`mtinst`, `mtval2`) is kept rather than stored as 0
(R66, R67). -/
opaque Config.warlKept : Nat → CsrAddr → Bool
/-- Whether a `WFI` waits rather than retiring at once (R164 outcomes a and b). -/
opaque Config.wfiWaits : Nat → Bool
/-- Whether a limited `WFI` times out now (R164 outcome c). -/
opaque Config.wfiTimesOut : Nat → Bool

end Sys2Proof
end

