-- ==== Sys2Proof/Syntax.lean ====
section
/-! DEFINITION. The instructions: one constructor per row of spec/opcode_table.json, with the operands of
30_encoding.md R121 and R122. The pseudo-instructions of R128 have no constructor: they are `csrrs`, `csrrw` and
so on with particular operands. -/

namespace Sys2Proof

/-- An instruction. `rd`, `rs1` are register numbers, `csr` a CSR address, `uimm` the 5-bit immediate (R122). -/
inductive Instr where
  /-- Atomic read and write CSR (R143). -/
  | csrrw (rd : RegNum) (csr : CsrAddr) (rs1 : RegNum)
  /-- Atomic read and set bits (R144). -/
  | csrrs (rd : RegNum) (csr : CsrAddr) (rs1 : RegNum)
  /-- Atomic read and clear bits (R145). -/
  | csrrc (rd : RegNum) (csr : CsrAddr) (rs1 : RegNum)
  /-- Read and write an immediate (R146). -/
  | csrrwi (rd : RegNum) (csr : CsrAddr) (uimm : BitVec 5)
  /-- Read and set the bits of an immediate (R147). -/
  | csrrsi (rd : RegNum) (csr : CsrAddr) (uimm : BitVec 5)
  /-- Read and clear the bits of an immediate (R148). -/
  | csrrci (rd : RegNum) (csr : CsrAddr) (uimm : BitVec 5)
  /-- Environment call (R162). -/
  | ecall
  /-- Breakpoint (R163). -/
  | ebreak
  /-- Return from an S-mode trap (R161). -/
  | sret
  /-- Return from an M-mode trap (R160). -/
  | mret
  /-- Wait for interrupt (R164). -/
  | wfi
  deriving DecidableEq, Repr

end Sys2Proof
end

