-- ==== Sys2Proof/WellFormed.lean ====
section
/-! DEFINITION. What must hold of the data before it means anything. An instruction's operands are held in types
of exactly the encoding's widths, and 30_encoding.md R126 reserves no value of any of them, so every instruction
is well formed. The parameters are where a check is needed (00_scope.md R5). -/

namespace Sys2Proof

/-- Every instruction is well formed: the operands' types are the fields' widths and no value is reserved (R126). -/
def Instr.wellFormed : Instr → Bool
  | .csrrw _ _ _ => true
  | .csrrs _ _ _ => true
  | .csrrc _ _ _ => true
  | .csrrwi _ _ _ => true
  | .csrrsi _ _ _ => true
  | .csrrci _ _ _ => true
  | .ecall => true
  | .ebreak => true
  | .sret => true
  | .mret => true
  | .wfi => true

/-- `MISA_VALUE` keeps the consistency of R51 and D30: `MXL` = 2, bit 2 = `HAS_C`, bits 5, 8, 18 and 20 set. -/
def Params.misaConsistent (p : Params) : Bool :=
  p.misa.extractLsb' 62 2 == 2#2 && p.misa.getLsbD 2 == p.hasC &&
  p.misa.getLsbD 5 && p.misa.getLsbD 8 && p.misa.getLsbD 18 && p.misa.getLsbD 20

/-- `RESET_VECTOR` is a multiple of `IALIGN`/8 (R14, R230). -/
def Params.resetVectorAligned (p : Params) : Bool :=
  p.resetVector &&& (if p.hasC then 1#64 else 3#64) == 0#64

/-- The parameters are within the ranges of R5: `NHPM` at most 29, `misa` consistent, the reset vector aligned,
the vector masks within `BASE`, the platform interrupts at bits 16 and up. -/
def Params.wellFormed (p : Params) : Bool :=
  decide (p.nhpm ≤ 29) && p.misaConsistent && p.resetVectorAligned &&
  p.mtvecBaseMask &&& 3#64 == 0#64 && p.stvecBaseMask &&& 3#64 == 0#64 &&
  p.platformIrqMask &&& 0xFFFF#64 == 0#64

end Sys2Proof
end

