-- ==== Sys2Proof/Decode.lean ====
section
/-! DEFINITION. From bytes to instructions and back (30_encoding.md R120 to R126). -/

namespace Sys2Proof

/-- The fields of the SYSTEM form (R121). -/
def opcodeField (w : BitVec 32) : BitVec 7 := w.extractLsb' 0 7
def rdField (w : BitVec 32) : RegNum := w.extractLsb' 7 5
def funct3Field (w : BitVec 32) : BitVec 3 := w.extractLsb' 12 3
/-- Bits 19:15: `rs1` in the register forms, `uimm` in the immediate forms (R122). -/
def rs1Field (w : BitVec 32) : RegNum := w.extractLsb' 15 5
def csrField (w : BitVec 32) : CsrAddr := w.extractLsb' 20 12

/-- The five instructions whose whole word is fixed (R124). -/
def decodeFixed (w : BitVec 32) : Option Instr :=
  if w = 0x00000073#32 then some .ecall
  else if w = 0x00100073#32 then some .ebreak
  else if w = 0x10200073#32 then some .sret
  else if w = 0x30200073#32 then some .mret
  else if w = 0x10500073#32 then some .wfi
  else none

/-- The instruction a 32-bit word stands for, if the table has a row for it (R123, R124, R125). -/
def decodeWord (w : BitVec 32) : Option Instr :=
  if opcodeField w = 0x73#7 then
    if funct3Field w = 1#3 then some (.csrrw (rdField w) (csrField w) (rs1Field w))
    else if funct3Field w = 2#3 then some (.csrrs (rdField w) (csrField w) (rs1Field w))
    else if funct3Field w = 3#3 then some (.csrrc (rdField w) (csrField w) (rs1Field w))
    else if funct3Field w = 5#3 then some (.csrrwi (rdField w) (csrField w) (rs1Field w))
    else if funct3Field w = 6#3 then some (.csrrsi (rdField w) (csrField w) (rs1Field w))
    else if funct3Field w = 7#3 then some (.csrrci (rdField w) (csrField w) (rs1Field w))
    else if funct3Field w = 0#3 then decodeFixed w
    else none
  else none

/-- What a decoder says of bytes. -/
inductive Decoded where
  /-- An instruction, and the bytes after it. -/
  | instr (i : Instr) (rest : List Byte)
  /-- The first halfword's two lowest bits are not `0b11`: a 16-bit instruction, none of which the spec defines (R120). -/
  | compressed (half : BitVec 16)
  /-- A 32-bit word no row of the table matches (R125). -/
  | notInTable (word : BitVec 32)
  /-- Fewer bytes than the instruction's length. -/
  | tooShort
  deriving DecidableEq, Repr

/-- Reads one instruction from the front of a list of bytes, lowest address first, little-endian (R101, R120). The
length follows from bits 1:0 of the first halfword alone. -/
def decode : List Byte → Decoded
  | b0 :: b1 :: rest =>
    if b0.extractLsb' 0 2 = 3#2 then
      match rest with
      | b2 :: b3 :: rest' =>
        match decodeWord (b3 ++ b2 ++ b1 ++ b0) with
        | some i => .instr i rest'
        | none => .notInTable (b3 ++ b2 ++ b1 ++ b0)
      | _ => .tooShort
    else .compressed (b1 ++ b0)
  | _ => .tooShort

/-- A word of the SYSTEM form (R121). -/
def systemWord (csr : CsrAddr) (rs1 : BitVec 5) (funct3 : BitVec 3) (rd : RegNum) : BitVec 32 :=
  csr ++ rs1 ++ funct3 ++ rd ++ 0x73#7

/-- The word of an instruction (R143 to R148, R124). -/
def encode : Instr → BitVec 32
  | .csrrw rd csr rs1 => systemWord csr rs1 1#3 rd
  | .csrrs rd csr rs1 => systemWord csr rs1 2#3 rd
  | .csrrc rd csr rs1 => systemWord csr rs1 3#3 rd
  | .csrrwi rd csr uimm => systemWord csr uimm 5#3 rd
  | .csrrsi rd csr uimm => systemWord csr uimm 6#3 rd
  | .csrrci rd csr uimm => systemWord csr uimm 7#3 rd
  | .ecall => systemWord 0x000#12 0#5 0#3 0#5
  | .ebreak => systemWord 0x001#12 0#5 0#3 0#5
  | .sret => systemWord 0x102#12 0#5 0#3 0#5
  | .mret => systemWord 0x302#12 0#5 0#3 0#5
  | .wfi => systemWord 0x105#12 0#5 0#3 0#5

/-- The four bytes of a word as memory holds them, lowest address first (R101). -/
def wordBytes (w : BitVec 32) : List Byte :=
  [w.extractLsb' 0 8, w.extractLsb' 8 8, w.extractLsb' 16 8, w.extractLsb' 24 8]

/-- The bytes of an instruction. -/
def encodeBytes (i : Instr) : List Byte := wordBytes (encode i)

/-- The 32-bit word of an opcode-table row given by its `nbits` low bits, the bits above them zero. -/
def tableWord (nbits w : Nat) : BitVec 32 := BitVec.ofNat 32 (w % 2 ^ nbits)

/-- What the decoder reads from the bytes of a table word. -/
def decodeTableWord (nbits w : Nat) : Option Instr :=
  match decode (wordBytes (tableWord nbits w)) with
  | .instr i _ => some i
  | _ => none

end Sys2Proof
end

