-- ==== Sys2Proof/Machine/State.lean ====
section
/-! DEFINITION. The state of the machine, the reasons it stops, and the state after reset. -/

namespace Sys2Proof.Machine

/-- The privilege modes, U < S < M (R13). -/
inductive Priv where
  | U | S | M
  deriving DecidableEq, Repr

/-- The named fields of `mstatus` that have storage (R39 to R49). `SXL` and `UXL` are hard-wired (R45) and the
unnamed bits are never stored (R50), so neither is here (log 13). `MPP` holds a mode, so no state holds the code
0b10 (R42). -/
structure Status where
  /-- Bit 1 (R40). -/
  sie : Bool
  /-- Bit 3 (R40). -/
  mie : Bool
  /-- Bit 5 (R41). -/
  spie : Bool
  /-- Bit 7 (R41). -/
  mpie : Bool
  /-- Bit 8: false for U, true for S (R42). -/
  spp : Bool
  /-- Bits 12:11 (R42). -/
  mpp : Priv
  /-- Bits 10:9 (R44). -/
  vs : BitVec 2
  /-- Bits 14:13 (R44). -/
  fs : BitVec 2
  /-- Bit 17 (R46). -/
  mprv : Bool
  /-- Bit 18 (R48). -/
  sum : Bool
  /-- Bit 19 (R47). -/
  mxr : Bool
  /-- Bit 21 (R49). -/
  tw : Bool
  /-- Bit 6, read-only 0 unless `BIG_ENDIAN_SUPPORTED` (R43). -/
  ube : Bool
  /-- Bit 36 (R43). -/
  sbe : Bool
  /-- Bit 37 (R43). -/
  mbe : Bool
  deriving DecidableEq, Repr

/-- What the platform drives at one instruction boundary (R183): the levels of the interrupt inputs, and a request
that sets `SSIP`. -/
structure PlatformInput where
  /-- The level of `MEIP`, `mip` bit 11. -/
  meip : Bool
  /-- The level of `MTIP`, `mip` bit 7. -/
  mtip : Bool
  /-- The level of `MSIP`, `mip` bit 3. -/
  msip : Bool
  /-- The level of the external supervisor input `ext_seip` (R65). -/
  extSeip : Bool
  /-- Set `SSIP`, `mip` bit 1 (never clears it). -/
  setSsip : Bool
  /-- The levels of the platform interrupts, bits 16 and up, where `PLATFORM_IRQ_MASK` has a 1 (R182, D38). -/
  irqs : Word
  deriving DecidableEq, Repr

/-- Memory: the listed bytes by address, addresses strictly rising. An address that is not listed is not backed by
the platform (log 9). -/
abbrev Memory := List Host.Cell

structure State where
  /-- The parameters (R5); no step changes them. -/
  par : Params
  /-- The current privilege mode (R13). -/
  priv : Priv
  /-- The program counter (R14). -/
  pc : Word
  /-- `x1` to `x31`, `x1` first; `x0` has no storage (R15). -/
  x : Vector Word 31
  /-- The fields of `mstatus`, and so of `sstatus` (R29, R39). -/
  mstatus : Status
  /-- R52. -/
  medeleg : Word
  /-- R53. -/
  mideleg : Word
  /-- R54; `sie` is a view of it (R30). -/
  mie : Word
  /-- The stored bits of `mip`; bit 9 is the software latch `SEIP_sw` (R64, R65). -/
  mip : Word
  /-- The external supervisor interrupt input `ext_seip` (R65). -/
  extSeip : Bool
  /-- R55. -/
  mtvec : Word
  /-- The model's own: an instruction has written `mtvec` (R237). -/
  mtvecWritten : Bool
  /-- R57. -/
  mcounteren : BitVec 32
  /-- R58. -/
  mcountinhibit : BitVec 32
  /-- `mhpmevent3` to `mhpmevent31` (R59). -/
  mhpmevent : Vector Word 29
  /-- R60. -/
  mscratch : Word
  /-- R61. -/
  mepc : Word
  /-- R62. -/
  mcause : Word
  /-- R63. -/
  mtval : Word
  /-- R66. -/
  mtinst : Word
  /-- R67. -/
  mtval2 : Word
  /-- R31. -/
  stvec : Word
  /-- The model's own: an instruction has written `stvec` (R237, I1). -/
  stvecWritten : Bool
  /-- R32. -/
  scounteren : BitVec 32
  /-- R33. -/
  sscratch : Word
  /-- R34. -/
  sepc : Word
  /-- R35. -/
  scause : Word
  /-- R36. -/
  stval : Word
  /-- `frm` in bits 7:5 and `fflags` in bits 4:0 (R24). -/
  fcsr : BitVec 8
  /-- R68. -/
  tselect : Word
  /-- R69. -/
  tdata1 : Word
  /-- R70. -/
  tdata2 : Word
  /-- R71. -/
  tdata3 : Word
  /-- R72. -/
  tinfo : Word
  /-- R73. -/
  tcontrol : Word
  /-- R74. -/
  mcontext : Word
  /-- R75; `cycle` is its shadow (R25). -/
  mcycle : Word
  /-- R76; `instret` is its shadow (R27). -/
  minstret : Word
  /-- `mhpmcounter3` to `mhpmcounter31` (R77); `hpmcounterN` are their shadows (R28). -/
  mhpmcounter : Vector Word 29
  /-- The platform's real-time counter (R26). -/
  time : Word
  /-- The hart waits in a `WFI` (R84, R164). -/
  waiting : Bool
  /-- The model's own: how many steps the present `WFI` has waited (R164, `TW_LIMIT`). -/
  waitSteps : Nat
  /-- Memory (R100). -/
  mem : Memory
  /-- The platform's inputs to come, one for each boundary; when it is empty the platform changes nothing (log 8). -/
  platform : List PlatformInput
  /-- The model's own: the index of the next free values (log 7). -/
  draws : Nat
  deriving DecidableEq, Repr

/-- Why the machine stops with a fault. -/
inductive Fault where
  /-- A trap to M-mode through an `mtvec` no instruction has written (R237). Raised by taking a trap, in any instruction
  or at an interrupt. Safe: the hardware goes on at an unspecified address. -/
  | mtvecUnwritten
  /-- A trap to S-mode through an `stvec` no instruction has written (I1). Raised by taking a trap, in any instruction
  or at an interrupt. Safe: the hardware goes on at an unspecified address. -/
  | stvecUnwritten
  deriving DecidableEq, Repr

/-- Why the machine gives no meaning. -/
inductive Refusal where
  /-- An instruction with no meaning yet; raised by `exec` only. Safe. -/
  | notModelled (mnemonic : String)
  /-- A CSR instruction that writes 1 to `mstatus` bit 20 or bit 22, which the spec refuses (R50). Raised by the six
  CSR instructions. Safe. -/
  | statusTrapControl
  /-- A 16-bit instruction while `HAS_C` is true, which the spec refuses (R120). Raised by the step. Safe. -/
  | compressedInstruction
  /-- A 32-bit word no row of the table matches, which the spec refuses (R125). Raised by the step. Safe. -/
  | wordNotInTable
  deriving DecidableEq, Repr

/-- The fields of `mstatus` after reset: R85 for `MIE`, `MPRV`, `MBE`, `SBE`, `UBE`, the others DESIGN CHOICE 0
(log 1). -/
def Status.reset : Status where
  sie := false
  mie := false
  spie := false
  mpie := false
  spp := false
  mpp := .U
  vs := 0#2
  fs := 0#2
  mprv := false
  sum := false
  mxr := false
  tw := false
  ube := false
  sbe := false
  mbe := false

/-- A value of `mtvec` or `stvec` whose `MODE` is 0 or 1: bit 1 cleared (R55). -/
def legalVector (v : Word) : Word := v &&& ~~~2#64

/-- The state after reset with given parameters (R230, R85). What R230 leaves unspecified is DESIGN CHOICE: 0
(log 1), for `mtvec` and `stvec` a free value (log 2). -/
def State.resetWith (p : Params) : State where
  par := p
  priv := .M
  pc := p.resetVector
  x := Vector.replicate 31 0#64
  mstatus := Status.reset
  medeleg := 0#64
  mideleg := 0#64
  mie := 0#64
  mip := 0#64
  extSeip := false
  mtvec := legalVector Config.mtvecAtReset
  mtvecWritten := false
  mcounteren := 0#32
  mcountinhibit := 0#32
  mhpmevent := Vector.replicate 29 0#64
  mscratch := 0#64
  mepc := 0#64
  mcause := 0#64
  mtval := 0#64
  mtinst := 0#64
  mtval2 := 0#64
  stvec := legalVector Config.stvecAtReset
  stvecWritten := false
  scounteren := 0#32
  sscratch := 0#64
  sepc := 0#64
  scause := 0#64
  stval := 0#64
  fcsr := 0#8
  tselect := 0#64
  tdata1 := 0#64
  tdata2 := 0#64
  tdata3 := 0#64
  tinfo := 0#64
  tcontrol := 0#64
  mcontext := 0#64
  mcycle := 0#64
  minstret := 0#64
  mhpmcounter := Vector.replicate 29 0#64
  time := 0#64
  waiting := false
  waitSteps := 0
  mem := []
  platform := []
  draws := 0

/-- The state after reset (R230), with the parameters of `Config.params`. -/
def State.reset : State := State.resetWith Config.params

end Sys2Proof.Machine
end

