-- ==== Sys2Proof/Machine/Flags.lean ====
section
/-! DEFINITION. The fields of `mstatus`: their places in the word, their write rules (10_state.md R39 to R50), and
what trap entry and return do to them (R192, R193, R160, R161). -/

namespace Sys2Proof.Machine

/-- The code of a mode (R13). -/
def Priv.code : Priv → BitVec 2
  | .U => 0#2
  | .S => 1#2
  | .M => 3#2

/-- The mode of a code; 0b10 names none (R13). -/
def Priv.ofCode (c : BitVec 2) : Option Priv :=
  if c = 0#2 then some .U else if c = 1#2 then some .S else if c = 3#2 then some .M else none

/-- A word with one bit given and the others 0. -/
def flagAt (b : Bool) (k : Nat) : Word := if b then 1#64 <<< k else 0#64

/-- A word with a two-bit field given and the other bits 0. -/
def fieldAt (f : BitVec 2) (k : Nat) : Word := f.zeroExtend 64 <<< k

/-- The bits of `mstatus` the source names (R39; the mask `NAMED` of 95_test_vectors.md). -/
def namedStatusMask : Word := 0x0000003F002E7FEA#64

/-- The bits of `mstatus` that `sstatus` shows (R29). -/
def sstatusMask : Word := 0x80000003000DE762#64

/-- The bits `TVM` (20) and `TSR` (22), which no instruction may set (R50). -/
def statusTrapMask : Word := 0x0000000000500000#64

/-- The named bits of `mstatus`, the others 0. `MBE`, `SBE`, `UBE` read 0 unless big-endian is supported (R43);
`SXL` and `UXL` read 2 (R45). -/
def statusNamed (bigEndian : Bool) (m : Status) : Word :=
  flagAt m.sie 1 ||| flagAt m.mie 3 ||| flagAt m.spie 5 ||| flagAt (bigEndian && m.ube) 6 |||
  flagAt m.mpie 7 ||| flagAt m.spp 8 ||| fieldAt m.vs 9 ||| fieldAt m.mpp.code 11 ||| fieldAt m.fs 13 |||
  flagAt m.mprv 17 ||| flagAt m.sum 18 ||| flagAt m.mxr 19 ||| flagAt m.tw 21 |||
  fieldAt 2#2 32 ||| fieldAt 2#2 34 ||| flagAt (bigEndian && m.sbe) 36 ||| flagAt (bigEndian && m.mbe) 37

/-- The unnamed bits of a read of `mstatus` (R50): free, or under "standard" `SD` = 1 exactly when `FS` or `VS` is 3. -/
def statusUnnamed (setting : UnnamedBitsSetting) (draw : Nat) (m : Status) : Word :=
  match setting with
  | .free => Config.statusBits draw &&& ~~~namedStatusMask
  | .standard => flagAt (m.fs == 3#2 || m.vs == 3#2) 63

/-- The write rule of each field applied to its bits of `v` (R40 to R50). An illegal `MPP` leaves `MPP` as it is
(R42); `SXL`, `UXL` and the unnamed bits are not stored. -/
def statusWrite (bigEndian : Bool) (m : Status) (v : Word) : Status where
  sie := v.getLsbD 1
  mie := v.getLsbD 3
  spie := v.getLsbD 5
  mpie := v.getLsbD 7
  spp := v.getLsbD 8
  mpp := (Priv.ofCode (v.extractLsb' 11 2)).getD m.mpp
  vs := v.extractLsb' 9 2
  fs := v.extractLsb' 13 2
  mprv := v.getLsbD 17
  sum := v.getLsbD 18
  mxr := v.getLsbD 19
  tw := v.getLsbD 21
  ube := if bigEndian then v.getLsbD 6 else m.ube
  sbe := if bigEndian then v.getLsbD 36 else m.sbe
  mbe := if bigEndian then v.getLsbD 37 else m.mbe

/-- `mstatus` after an M-mode trap entry from mode `p` (R192). -/
def statusEnterM (p : Priv) (m : Status) : Status := { m with mpie := m.mie, mie := false, mpp := p }

/-- `mstatus` after an S-mode trap entry from mode `p` (R193). -/
def statusEnterS (p : Priv) (m : Status) : Status := { m with spie := m.sie, sie := false, spp := p == .S }

/-- `mstatus` after `MRET` (R160). -/
def statusMret (m : Status) : Status :=
  { m with mie := m.mpie, mpie := true, mpp := .U, mprv := m.mprv && m.mpp == .M }

/-- `mstatus` after `SRET` (R161). -/
def statusSret (m : Status) : Status :=
  { m with sie := m.spie, spie := true, spp := false, mprv := false }

/-- The mode `SRET` returns to (R161). -/
def sretMode (m : Status) : Priv := if m.spp then .S else .U

end Sys2Proof.Machine
end

