-- ==== Sys2Proof/Machine/Operands.lean ====
section
/-! DEFINITION. The operands of an instruction: general registers (10_state.md R15) and control and status registers
(R16 to R82): the listing, the access check (40_csr_access.md R140), reads (R141) and writes (R142). -/

namespace Sys2Proof.Machine

/-! ## General registers -/

/-- `x[r]`; `x0` reads 0 (R15). -/
def State.getX (s : State) (r : RegNum) : Word :=
  if r = 0#5 then 0#64 else s.x[r.toNat - 1]'(by have := r.isLt; omega)

/-- `x[r] <- v`; a write to `x0` is discarded (R15). -/
def State.setX (s : State) (r : RegNum) (v : Word) : State :=
  if r = 0#5 then s else { s with x := s.x.set (r.toNat - 1) v (by have := r.isLt; omega) }

/-! ## The listing -/

/-- The registers of the listing (10_state.md, the table after R21). The argument of an event counter or selector is
`N - 3`. -/
inductive Csr where
  | fflags | frm | fcsr
  | cycle | time | instret | hpmcounter (n : Fin 29)
  | sstatus | sie | stvec | scounteren | sscratch | sepc | scause | stval | sip | scountovf
  | mstatus | misa | medeleg | mideleg | mie | mtvec | mcounteren
  | mcountinhibit | mhpmevent (n : Fin 29)
  | mscratch | mepc | mcause | mtval | mip | mtinst | mtval2
  | tselect | tdata1 | tdata2 | tdata3 | tinfo | tcontrol | mcontext
  | mcycle | minstret | mhpmcounter (n : Fin 29)
  | mvendorid | marchid | mimpid | mhartid | mconfigptr
  deriving DecidableEq, Repr

/-- The address of a register (R22 to R82; R21 for the elided rows). -/
def Csr.addr : Csr → CsrAddr
  | .fflags => 0x001#12
  | .frm => 0x002#12
  | .fcsr => 0x003#12
  | .cycle => 0xC00#12
  | .time => 0xC01#12
  | .instret => 0xC02#12
  | .hpmcounter n => BitVec.ofNat 12 (0xC03 + n.val)
  | .sstatus => 0x100#12
  | .sie => 0x104#12
  | .stvec => 0x105#12
  | .scounteren => 0x106#12
  | .sscratch => 0x140#12
  | .sepc => 0x141#12
  | .scause => 0x142#12
  | .stval => 0x143#12
  | .sip => 0x144#12
  | .scountovf => 0xDA0#12
  | .mstatus => 0x300#12
  | .misa => 0x301#12
  | .medeleg => 0x302#12
  | .mideleg => 0x303#12
  | .mie => 0x304#12
  | .mtvec => 0x305#12
  | .mcounteren => 0x306#12
  | .mcountinhibit => 0x320#12
  | .mhpmevent n => BitVec.ofNat 12 (0x323 + n.val)
  | .mscratch => 0x340#12
  | .mepc => 0x341#12
  | .mcause => 0x342#12
  | .mtval => 0x343#12
  | .mip => 0x344#12
  | .mtinst => 0x34A#12
  | .mtval2 => 0x34B#12
  | .tselect => 0x7A0#12
  | .tdata1 => 0x7A1#12
  | .tdata2 => 0x7A2#12
  | .tdata3 => 0x7A3#12
  | .tinfo => 0x7A4#12
  | .tcontrol => 0x7A5#12
  | .mcontext => 0x7A8#12
  | .mcycle => 0xB00#12
  | .minstret => 0xB02#12
  | .mhpmcounter n => BitVec.ofNat 12 (0xB03 + n.val)
  | .mvendorid => 0xF11#12
  | .marchid => 0xF12#12
  | .mimpid => 0xF13#12
  | .mhartid => 0xF14#12
  | .mconfigptr => 0xF15#12

/-- The listed registers that are not one of a range of event counters or selectors. -/
def Csr.singles : List Csr :=
  [.fflags, .frm, .fcsr, .cycle, .time, .instret,
   .sstatus, .sie, .stvec, .scounteren, .sscratch, .sepc, .scause, .stval, .sip, .scountovf,
   .mstatus, .misa, .medeleg, .mideleg, .mie, .mtvec, .mcounteren, .mcountinhibit,
   .mscratch, .mepc, .mcause, .mtval, .mip, .mtinst, .mtval2,
   .tselect, .tdata1, .tdata2, .tdata3, .tinfo, .tcontrol, .mcontext,
   .mcycle, .minstret, .mvendorid, .marchid, .mimpid, .mhartid, .mconfigptr]

/-- All 132 registers (R19). -/
def Csr.listing : List Csr :=
  Csr.singles ++ (List.finRange 29).map Csr.hpmcounter ++ (List.finRange 29).map Csr.mhpmevent ++
  (List.finRange 29).map Csr.mhpmcounter

/-- The register at an address, if the listing has one there (R19). -/
def Csr.ofAddr (a : CsrAddr) : Option Csr := Csr.listing.find? (fun c => c.addr == a)

/-! ## The address rules and the access check -/

/-- The address is read-only: its top two bits are 11 (R17). -/
def readOnlyAddr (a : CsrAddr) : Bool := a.extractLsb' 10 2 == 3#2

/-- The mode may access the address: its code is not below bits 9:8 (R18). -/
def privilegeAllows (p : Priv) (a : CsrAddr) : Bool := (a.extractLsb' 8 2).ule p.code

/-- `a` is one of the user counters, 0xC00 to 0xC1F. -/
def userCounterAddr (a : CsrAddr) : Bool := a.extractLsb' 5 7 == 0x60#7

/-- The counter enables allow a read of the counter at `a` (R140 item 4, R57, R32). -/
def counterEnabled (s : State) (a : CsrAddr) : Bool :=
  let n := (a.extractLsb' 0 5).toNat
  (s.priv == .M || s.mcounteren.getLsbD n) && (s.priv != .U || s.scounteren.getLsbD n)

/-- `a` is `fflags`, `frm` or `fcsr` (R140 item 5). -/
def floatAddr (a : CsrAddr) : Bool := a == 0x001#12 || a == 0x002#12 || a == 0x003#12

/-- `CsrCheck(a, isWrite)`: the register accessed, or `none` when the check fails (R140). -/
def csrCheck (s : State) (a : CsrAddr) (isWrite : Bool) : Option Csr :=
  if privilegeAllows s.priv a && !(isWrite && readOnlyAddr a) &&
      (!userCounterAddr a || counterEnabled s a) && !(floatAddr a && s.mstatus.fs == 0#2)
  then Csr.ofAddr a else none

/-! ## Values of the registers -/

/-- `MEDELEG_MASK` (R52). -/
def medelegMask : Word := 0xCB3FF#64
/-- `S_INT_MASK`: interrupts 1, 5, 9, 13 (R30). -/
def sIntMask : Word := 0x2222#64
/-- The bits of `mip` a CSR write changes: `SSIP`, `STIP`, `SEIP_sw`, `LCOFIP` (R65). -/
def mipWritableMask : Word := 0x2222#64
/-- The bits of `mip` a write through `sip` may change: `SSIP`, `LCOFIP` (R37). -/
def sipWritableMask : Word := 0x2002#64
/-- The interrupts that exist: the standard ones and those of `PLATFORM_IRQ_MASK` (R54, R64). -/
def intMask (p : Params) : Word := 0x2AAA#64 ||| (p.platformIrqMask &&& ~~~0xFFFF#64)
/-- `EPC_LOW` (R61). -/
def epcLow (p : Params) : Word := if p.hasC then 1#64 else 3#64
/-- The bits of `mcountinhibit` that exist (R58). -/
def inhibitMask : BitVec 32 := 0xFFFFFFFD#32

/-- `medeleg` as it reads: read-only bits 0 (R52). -/
def medelegVal (s : State) : Word := s.medeleg &&& medelegMask
/-- `mideleg` as it reads (R53). -/
def midelegVal (s : State) : Word := s.mideleg &&& sIntMask
/-- `mie` as it reads (R54). -/
def mieVal (s : State) : Word := s.mie &&& intMask s.par
/-- The stored bits of `mip`, bit 9 being `SEIP_sw` (R64, R65). -/
def mipStored (s : State) : Word := s.mip &&& intMask s.par
/-- `mip_read`: bit 9 is `SEIP_sw | ext_seip` (R64, R65). -/
def mipRead (s : State) : Word := mipStored s ||| flagAt s.extSeip 9
/-- `sie` as it reads (R30). -/
def sieVal (s : State) : Word := mieVal s &&& midelegVal s
/-- `sip` as it reads (R37). -/
def sipVal (s : State) : Word := mipRead s &&& midelegVal s
/-- `mepc` as it reads (R61). -/
def mepcVal (s : State) : Word := s.mepc &&& ~~~epcLow s.par
/-- `sepc` as it reads (R34). -/
def sepcVal (s : State) : Word := s.sepc &&& ~~~epcLow s.par
/-- `mcountinhibit` as it reads (R58). -/
def inhibitVal (s : State) : BitVec 32 := s.mcountinhibit &&& inhibitMask

/-- Event counter `N = n + 3` is implemented (R77). -/
def hpmImplemented (s : State) (n : Fin 29) : Bool := decide (n.val < s.par.nhpm)
/-- `mhpmcounterN` as it reads: 0 when not implemented (R77). -/
def hpmCounterVal (s : State) (n : Fin 29) : Word := if hpmImplemented s n then s.mhpmcounter[n] else 0#64
/-- `mhpmeventN` as it reads: 0 when not implemented (R59). -/
def hpmEventVal (s : State) (n : Fin 29) : Word := if hpmImplemented s n then s.mhpmevent[n] else 0#64

/-- `mstatus` as it reads (R39, R50). -/
def mstatusVal (s : State) : Word :=
  statusNamed s.par.bigEndian s.mstatus ||| statusUnnamed s.par.unnamedBits s.draws s.mstatus

/-- Bit `N = n + 3` of `scountovf`: `mhpmeventN.OF`, shown in S-mode only where `mcounteren[N]` is 1 (R38). -/
def overflowShown (s : State) (n : Fin 29) : Bool :=
  (hpmEventVal s n).getLsbD 63 && (s.priv != .S || s.mcounteren.getLsbD (n.val + 3))

/-- `scountovf` as it reads (R38). -/
def scountovfVal (s : State) : Word :=
  (List.finRange 29).foldl (fun acc n => acc ||| flagAt (overflowShown s n) (n.val + 3)) 0#64

/-- A debug register as it reads: free, or 0 under "no triggers" (section 8 of 10_state.md). -/
def debugVal (s : State) (c : Csr) (stored : Word) : Word :=
  match s.par.triggers with
  | .free => Config.debugRead s.draws c.addr stored
  | .noTriggers => 0#64

/-- What a debug register stores when `v` is written: nothing new under "no triggers". -/
def debugStore (s : State) (stored v : Word) : Word :=
  match s.par.triggers with
  | .free => v
  | .noTriggers => stored

/-- What `mtinst` or `mtval2` stores when `v` is written: `v` or 0 (R66, R67). -/
def warlStore (s : State) (c : Csr) (v : Word) : Word := if Config.warlKept s.draws c.addr then v else 0#64

/-- What `mtvec` or `stvec` stores when `v` is written over `old`: the writable bits of `BASE`, and `MODE` if it is 0
or 1 (R55). -/
def vectorStore (baseMask old v : Word) : Word :=
  (((old &&& ~~~baseMask) ||| (v &&& baseMask)) &&& ~~~3#64) |||
  (if v.getLsbD 1 then old &&& 3#64 else v &&& 3#64)

/-! ## Reads and writes -/

/-- `CsrRead`: the value of a register (R141). -/
def csrRead (s : State) (c : Csr) : Word :=
  match c with
  | .fflags => (s.fcsr &&& 0x1F#8).zeroExtend 64
  | .frm => (s.fcsr >>> 5).zeroExtend 64
  | .fcsr => s.fcsr.zeroExtend 64
  | .cycle => s.mcycle
  | .time => s.time
  | .instret => s.minstret
  | .hpmcounter n => hpmCounterVal s n
  | .sstatus => mstatusVal s &&& sstatusMask
  | .sie => sieVal s
  | .stvec => s.stvec
  | .scounteren => s.scounteren.zeroExtend 64
  | .sscratch => s.sscratch
  | .sepc => sepcVal s
  | .scause => s.scause
  | .stval => s.stval
  | .sip => sipVal s
  | .scountovf => scountovfVal s
  | .mstatus => mstatusVal s
  | .misa => s.par.misa
  | .medeleg => medelegVal s
  | .mideleg => midelegVal s
  | .mie => mieVal s
  | .mtvec => s.mtvec
  | .mcounteren => s.mcounteren.zeroExtend 64
  | .mcountinhibit => (inhibitVal s).zeroExtend 64
  | .mhpmevent n => hpmEventVal s n
  | .mscratch => s.mscratch
  | .mepc => mepcVal s
  | .mcause => s.mcause
  | .mtval => s.mtval
  | .mip => mipRead s
  | .mtinst => s.mtinst
  | .mtval2 => s.mtval2
  | .tselect => debugVal s .tselect s.tselect
  | .tdata1 => debugVal s .tdata1 s.tdata1
  | .tdata2 => debugVal s .tdata2 s.tdata2
  | .tdata3 => debugVal s .tdata3 s.tdata3
  | .tinfo => debugVal s .tinfo s.tinfo
  | .tcontrol => debugVal s .tcontrol s.tcontrol
  | .mcontext => debugVal s .mcontext s.mcontext
  | .mcycle => s.mcycle
  | .minstret => s.minstret
  | .mhpmcounter n => hpmCounterVal s n
  | .mvendorid => s.par.mvendorid.zeroExtend 64
  | .marchid => s.par.marchid
  | .mimpid => s.par.mimpid
  | .mhartid => s.par.mhartid
  | .mconfigptr => s.par.mconfigptr

/-- The value a read-modify-write forms its written value from (R144): the value read, but for `mip` bit 9 is
`SEIP_sw` alone (R65). -/
def csrRmwBase (s : State) (c : Csr) : Word :=
  match c with
  | .mip => mipStored s
  | _ => csrRead s c

/-- A write to a floating-point CSR: the new `fcsr`, and `FS` becomes 3 (R44). -/
def writeFcsr (s : State) (v : BitVec 8) : State :=
  { s with fcsr := v, mstatus := { s.mstatus with fs := 3#2 } }

/-- A write of `v` to `mstatus` (R39). -/
def writeMstatus (s : State) (v : Word) : State :=
  { s with mstatus := statusWrite s.par.bigEndian s.mstatus v }

/-- The bits of `old` where `mask` is 0 and of `v` where it is 1. -/
def mergeBits (mask old v : Word) : Word := (old &&& ~~~mask) ||| (v &&& mask)

/-- `CsrWrite`: the state after writing `v` to a register (R142). A read-only register is not written; the access
check never lets one through (R17, R140). -/
def csrWrite (s : State) (c : Csr) (v : Word) : State :=
  match c with
  | .fflags => writeFcsr s ((s.fcsr &&& 0xE0#8) ||| (v.setWidth 8 &&& 0x1F#8))
  | .frm => writeFcsr s ((s.fcsr &&& 0x1F#8) ||| (v.setWidth 8 <<< 5))
  | .fcsr => writeFcsr s (v.setWidth 8)
  | .cycle => s
  | .time => s
  | .instret => s
  | .hpmcounter _ => s
  | .sstatus => writeMstatus s (mergeBits sstatusMask (statusNamed s.par.bigEndian s.mstatus) v)
  | .sie => { s with mie := mergeBits (midelegVal s) s.mie v }
  | .stvec => { s with stvec := vectorStore s.par.stvecBaseMask s.stvec v, stvecWritten := true }
  | .scounteren => { s with scounteren := v.setWidth 32 }
  | .sscratch => { s with sscratch := v }
  | .sepc => { s with sepc := v &&& ~~~epcLow s.par }
  | .scause => { s with scause := v }
  | .stval => if s.par.mtvalWritable then { s with stval := v } else s
  | .sip => { s with mip := mergeBits (sipWritableMask &&& midelegVal s) s.mip v }
  | .scountovf => s
  | .mstatus => writeMstatus s v
  | .misa => s
  | .medeleg => { s with medeleg := v &&& medelegMask }
  | .mideleg => { s with mideleg := v &&& sIntMask }
  | .mie => { s with mie := v &&& intMask s.par }
  | .mtvec => { s with mtvec := vectorStore s.par.mtvecBaseMask s.mtvec v, mtvecWritten := true }
  | .mcounteren => { s with mcounteren := v.setWidth 32 }
  | .mcountinhibit => { s with mcountinhibit := v.setWidth 32 &&& inhibitMask }
  | .mhpmevent n => if hpmImplemented s n then { s with mhpmevent := s.mhpmevent.set n v } else s
  | .mscratch => { s with mscratch := v }
  | .mepc => { s with mepc := v &&& ~~~epcLow s.par }
  | .mcause => { s with mcause := v }
  | .mtval => if s.par.mtvalWritable then { s with mtval := v } else s
  | .mip => { s with mip := mergeBits mipWritableMask s.mip v }
  | .mtinst => { s with mtinst := warlStore s .mtinst v }
  | .mtval2 => { s with mtval2 := warlStore s .mtval2 v }
  | .tselect => { s with tselect := debugStore s s.tselect v }
  | .tdata1 => { s with tdata1 := debugStore s s.tdata1 v }
  | .tdata2 => { s with tdata2 := debugStore s s.tdata2 v }
  | .tdata3 => { s with tdata3 := debugStore s s.tdata3 v }
  | .tinfo => { s with tinfo := debugStore s s.tinfo v }
  | .tcontrol => { s with tcontrol := debugStore s s.tcontrol v }
  | .mcontext => { s with mcontext := debugStore s s.mcontext v }
  | .mcycle => { s with mcycle := v }
  | .minstret => { s with minstret := v }
  | .mhpmcounter n => if hpmImplemented s n then { s with mhpmcounter := s.mhpmcounter.set n v } else s
  | .mvendorid => s
  | .marchid => s
  | .mimpid => s
  | .mhartid => s
  | .mconfigptr => s

/-- Writing `v` to the register is refused: it sets `mstatus` bit 20 or 22 (R50). -/
def csrWriteRefused (c : Csr) (v : Word) : Bool :=
  c == .mstatus && v &&& statusTrapMask != 0#64

end Sys2Proof.Machine
end

