-- ==== Sys2Proof/Machine/Ops.lean ====
section
/-! DEFINITION. The named operations of the machine: memory, counter stepping (10_state.md R83), retiring an
instruction, interrupt conditions and taking a trap (60_exceptions.md R180 to R199), and one CSR access (40_csr_access.md
R143 to R149). -/

namespace Sys2Proof.Machine

/-- The outcome of a step. -/
abbrev Result := Host.Outcome State Fault Refusal

/-! ## Memory -/

/-- The byte at an address; `none` where the platform backs no memory (R107, log 9). -/
def Memory.read (m : Memory) (a : Word) : Option Byte := m.lookup a.toNat

/-- Puts a byte at a key of a list of cells in rising order. -/
def insertCell (k : Nat) (b : Byte) : Memory → Memory
  | [] => [(k, b)]
  | c :: rest =>
    if k < c.1 then (k, b) :: c :: rest
    else if k = c.1 then (k, b) :: rest
    else c :: insertCell k b rest

/-- Memory with a byte at an address, in canonical form. -/
def Memory.write (m : Memory) (a : Word) (b : Byte) : Memory := insertCell a.toNat b m

/-- Every cell's address is above `lo` and the addresses rise strictly. -/
def risingFrom (lo : Nat) : Memory → Bool
  | [] => true
  | c :: rest => decide (lo ≤ c.1) && risingFrom (c.1 + 1) rest

/-- The canonical form: addresses strictly rising and all within the 64-bit space. An unlisted address has no value,
so no listed byte repeats what it would read as. -/
def Memory.wf (m : Memory) : Bool := risingFrom 0 m && m.all (fun c => decide (c.1 < 2 ^ 64))

/-- Memory with bytes at consecutive addresses from `a` on, modulo 2^64. -/
def Memory.writeBytes (m : Memory) (a : Word) : List Byte → Memory
  | [] => m
  | b :: rest => Memory.writeBytes (m.write a b) (a + 1#64) rest

/-- The four bytes at `pc`, lowest address first; `none` where one of them is not backed (R100, R101, log 10). -/
def fetchBytes (s : State) : Option (List Byte) :=
  match s.mem.read s.pc, s.mem.read (s.pc + 1#64), s.mem.read (s.pc + 2#64), s.mem.read (s.pc + 3#64) with
  | some b0, some b1, some b2, some b3 => some [b0, b1, b2, b3]
  | _, _, _, _ => none

/-- The state with an instruction word stored where the next fetch reads it, and the hart not waiting, so that the
next step fetches it (log 27). -/
def placeWord (s : State) (w : BitVec 32) : State :=
  { s with mem := s.mem.writeBytes s.pc (wordBytes w), waiting := false }

/-! ## Counters -/

/-- The selector of counter `n + 3` selects an event: its bits 57:0 are not all 0 (R59, R77, log 16). -/
def eventSelected (s : State) (n : Fin 29) : Bool := hpmEventVal s n &&& 0x03FFFFFFFFFFFFFF#64 != 0#64

/-- How much counter `n + 3` counts in a step that starts in `pre` and writes `wrote` (R77, R83). -/
def hpmStep (pre : State) (wrote : Option Csr) (n : Fin 29) : Nat :=
  if hpmImplemented pre n && !(inhibitVal pre).getLsbD (n.val + 3) && eventSelected pre n &&
      wrote != some (.mhpmcounter n)
  then Config.hpmEvents pre.draws (n.val + 3) else 0

/-- Counter `n + 3` wraps in the step (R77). -/
def hpmWraps (pre : State) (wrote : Option Csr) (post : State) (n : Fin 29) : Bool :=
  hpmImplemented pre n && decide (2 ^ 64 ≤ post.mhpmcounter[n].toNat + hpmStep pre wrote n)

/-- A wrap finds `OF` clear, so interrupt 13 is made pending (R59, R77). -/
def overflowRaised (pre : State) (wrote : Option Csr) (post : State) : Bool :=
  (List.finRange 29).any (fun n => hpmWraps pre wrote post n && !post.mhpmevent[n].getLsbD 63)

/-- What a step adds to `mcycle` (R75, R83). -/
def cycleStep (pre : State) (wrote : Option Csr) : Word :=
  if !(inhibitVal pre).getLsbD 0 && wrote != some .mcycle then
    1#64 + BitVec.ofNat 64 (Config.extraCycles pre.draws) else 0#64

/-- What a step adds to `minstret` (R76, R83). -/
def instretStep (pre : State) (wrote : Option Csr) (retired : Bool) : Word :=
  if retired && !(inhibitVal pre).getLsbD 2 && wrote != some .minstret then 1#64 else 0#64

/-- One application of counter stepping (R83) to `post`, for a step that started in `pre`, wrote the register `wrote`
and retired an instruction or not. Inhibits and selectors are those of `pre` (log 14); an overflow sets `OF` and
`LCOFIP` on top of what the step wrote (log 15). The next step draws afresh. -/
def stepCounters (pre : State) (wrote : Option Csr) (retired : Bool) (post : State) : State :=
  { post with
    mcycle := post.mcycle + cycleStep pre wrote
    minstret := post.minstret + instretStep pre wrote retired
    mhpmcounter := Vector.ofFn fun n => post.mhpmcounter[n] + BitVec.ofNat 64 (hpmStep pre wrote n)
    mhpmevent := Vector.ofFn fun n => post.mhpmevent[n] ||| flagAt (hpmWraps pre wrote post n) 63
    mip := post.mip ||| flagAt (overflowRaised pre wrote post) 13
    draws := pre.draws + 1 }

/-- An instruction that started in `pre` retires with `post` (R76, R83). -/
def retire (pre : State) (wrote : Option Csr) (post : State) : State := stepCounters pre wrote true post

/-! ## Causes -/

/-- The synchronous exceptions the cause table defines (R180). The model raises `instrAccessFault`,
`illegalInstruction`, `breakpoint` and the environment calls. -/
inductive Exception where
  | instrAddrMisaligned | instrAccessFault | illegalInstruction | breakpoint
  | loadAddrMisaligned | loadAccessFault | storeAddrMisaligned | storeAccessFault
  | ecallFromU | ecallFromS | ecallFromM
  | instrPageFault | loadPageFault | storePageFault
  | softwareCheck | hardwareError
  deriving DecidableEq, Repr

/-- The exception code (R180). -/
def exceptionCode : Exception → Nat
  | .instrAddrMisaligned => 0
  | .instrAccessFault => 1
  | .illegalInstruction => 2
  | .breakpoint => 3
  | .loadAddrMisaligned => 4
  | .loadAccessFault => 5
  | .storeAddrMisaligned => 6
  | .storeAccessFault => 7
  | .ecallFromU => 8
  | .ecallFromS => 9
  | .ecallFromM => 11
  | .instrPageFault => 12
  | .loadPageFault => 13
  | .storePageFault => 15
  | .softwareCheck => 18
  | .hardwareError => 19

/-- The value of `mcause` or `scause`: the `Interrupt` bit and the code (R62, R35). -/
def causeWord (isIntr : Bool) (code : Nat) : Word := flagAt isIntr 63 ||| BitVec.ofNat 64 code

/-! ## Interrupt conditions -/

/-- Interrupt `i` may cause an M-mode trap (R184). -/
def mTrap (s : State) (i : Nat) : Bool :=
  (s.priv != .M || s.mstatus.mie) &&
  ((mieVal s).getLsbD i && (mipRead s).getLsbD i && !(midelegVal s).getLsbD i)

/-- The global enable of S-mode interrupts (R187). -/
def sGlobalEnable (s : State) : Bool :=
  match s.priv with
  | .S => s.mstatus.sie
  | .U => s.mstatus.sie || !s.par.sieGatesU
  | .M => false

/-- Interrupt `i` may cause an S-mode trap (R187). -/
def sTrap (s : State) (i : Nat) : Bool :=
  (s.priv != .M && sGlobalEnable s) &&
  ((midelegVal s).getLsbD i && (sieVal s).getLsbD i && (sipVal s).getLsbD i)

/-- The interrupts in decreasing priority (R189); those of the platform last, lowest code first (D38, log 20). -/
def interruptOrder : List Nat := [11, 3, 7, 9, 1, 5, 13] ++ (List.range 48).map (· + 16)

/-- The interrupt a boundary takes, if any: an M-mode trap before an S-mode trap (R188, R189). -/
def pendingInterrupt (s : State) : Option Nat :=
  match interruptOrder.find? (mTrap s) with
  | some i => some i
  | none => interruptOrder.find? (sTrap s)

/-- `WFI` wakes: an interrupt is pending and enabled in `mie`, whatever the global enables (R164). -/
def wakes (s : State) : Bool := mieVal s &&& mipRead s != 0#64

/-! ## Taking a trap -/

/-- The trap is handled in S-mode (R195). -/
def delegated (s : State) (isIntr : Bool) (code : Nat) : Bool :=
  s.priv != .M && (if isIntr then midelegVal s else medelegVal s).getLsbD code && (!isIntr || sTrap s code)

/-- `TrapTarget` (R199). -/
def trapTarget (tvec : Word) (isIntr : Bool) (code : Nat) : Word :=
  if isIntr && tvec.extractLsb' 0 2 == 1#2 then (tvec &&& ~~~3#64) + BitVec.ofNat 64 (4 * code)
  else tvec &&& ~~~3#64

/-- The trap value: the informative value or 0 (R194). -/
def trapValue (s : State) (info : Word) : Word :=
  match s.par.trapValue with
  | .free => if Config.trapValueKept s.draws then info else 0#64
  | .exact => info
  | .zero => 0#64

/-- M-mode trap entry (R192). -/
def enterM (s : State) (isIntr : Bool) (code : Nat) (tval : Word) : State :=
  { s with
    mepc := s.pc &&& ~~~epcLow s.par
    mcause := causeWord isIntr code
    mtval := tval
    mtinst := 0#64
    mtval2 := 0#64
    mstatus := statusEnterM s.priv s.mstatus
    priv := .M
    pc := trapTarget s.mtvec isIntr code
    waiting := false
    waitSteps := 0 }

/-- S-mode trap entry (R193). -/
def enterS (s : State) (isIntr : Bool) (code : Nat) (tval : Word) : State :=
  { s with
    sepc := s.pc &&& ~~~epcLow s.par
    scause := causeWord isIntr code
    stval := tval
    mstatus := statusEnterS s.priv s.mstatus
    priv := .S
    pc := trapTarget s.stvec isIntr code
    waiting := false
    waitSteps := 0 }

/-- Taking a trap whose saved pc is `s.pc` (R198) and whose informative value is `info`: at the level of R195, one
step of the hart in which nothing retires (R83, R191). A trap through a vector no instruction has written is a fault
(R237, I1). -/
def takeTrap (isIntr : Bool) (code : Nat) (info : Word) (s : State) : Result :=
  if delegated s isIntr code then
    if s.stvecWritten = false then .fault .stvecUnwritten
    else .next (stepCounters s none false (enterS s isIntr code (trapValue s info)))
  else
    if s.mtvecWritten = false then .fault .mtvecUnwritten
    else .next (stepCounters s none false (enterM s isIntr code (trapValue s info)))

/-- `raise e(info)` (00_scope.md R7): the current instruction changes nothing but by the trap entry (R191). -/
def raise (e : Exception) (info : Word) (s : State) : Result := takeTrap false (exceptionCode e) info s

/-- Illegal instruction, with the instruction word as informative value (R140, R194). -/
def raiseIllegal (i : Instr) (s : State) : Result := raise .illegalInstruction ((encode i).zeroExtend 64) s

/-! ## One CSR access -/

/-- The common course of the six CSR instructions (R143 to R149): the check, the read, the write of `newVal` of the
register's value for a read-modify-write, `rd`, `pc + 4`. `isWrite` is the table of R149; a discarded read (`rd` =
`x0`) has no effect to leave out, since no read has a side effect (R105). -/
def csrAccess (i : Instr) (a : CsrAddr) (rd : RegNum) (isWrite : Bool) (newVal : Word → Word) (s : State) : Result :=
  match csrCheck s a isWrite with
  | none => raiseIllegal i s
  | some c =>
    let v := newVal (csrRmwBase s c)
    if isWrite && csrWriteRefused c v then .refused .statusTrapControl
    else
      let written := if isWrite then csrWrite s c v else s
      .next (retire s (if isWrite then some c else none)
        { written.setX rd (csrRead s c) with pc := s.pc + 4#64 })

end Sys2Proof.Machine
end

