-- ==== Sys2Proof/Machine/CsrAccess.lean ====
section
/-! DEFINITION. The six CSR instructions (40_csr_access.md R143 to R149). -/

namespace Sys2Proof.Machine

/-- `CSRRW` (R143): always a write. -/
def execCsrrw (rd : RegNum) (csr : CsrAddr) (rs1 : RegNum) (s : State) : Result :=
  csrAccess (.csrrw rd csr rs1) csr rd true (fun _ => s.getX rs1) s

/-- `CSRRS` (R144): a write unless `rs1` is `x0`. -/
def execCsrrs (rd : RegNum) (csr : CsrAddr) (rs1 : RegNum) (s : State) : Result :=
  csrAccess (.csrrs rd csr rs1) csr rd (rs1 != 0#5) (fun old => old ||| s.getX rs1) s

/-- `CSRRC` (R145): a write unless `rs1` is `x0`. -/
def execCsrrc (rd : RegNum) (csr : CsrAddr) (rs1 : RegNum) (s : State) : Result :=
  csrAccess (.csrrc rd csr rs1) csr rd (rs1 != 0#5) (fun old => old &&& ~~~s.getX rs1) s

/-- `CSRRWI` (R146): always a write, of the zero-extended immediate. -/
def execCsrrwi (rd : RegNum) (csr : CsrAddr) (uimm : BitVec 5) (s : State) : Result :=
  csrAccess (.csrrwi rd csr uimm) csr rd true (fun _ => uimm.zeroExtend 64) s

/-- `CSRRSI` (R147): a write unless the immediate is 0. -/
def execCsrrsi (rd : RegNum) (csr : CsrAddr) (uimm : BitVec 5) (s : State) : Result :=
  csrAccess (.csrrsi rd csr uimm) csr rd (uimm != 0#5) (fun old => old ||| uimm.zeroExtend 64) s

/-- `CSRRCI` (R148): a write unless the immediate is 0. -/
def execCsrrci (rd : RegNum) (csr : CsrAddr) (uimm : BitVec 5) (s : State) : Result :=
  csrAccess (.csrrci rd csr uimm) csr rd (uimm != 0#5) (fun old => old &&& ~~~uimm.zeroExtend 64) s

end Sys2Proof.Machine
end

