-- ==== Sys2Proof/Machine/TrapSystem.lean ====
section
/-! DEFINITION. Environment calls, trap returns and `WFI` (41_trap_system.md R160 to R164). -/

namespace Sys2Proof.Machine

/-- The environment call exception of a mode (R162). -/
def ecallException : Priv → Exception
  | .U => .ecallFromU
  | .S => .ecallFromS
  | .M => .ecallFromM

/-- `ECALL` (R162): always traps, with the mode's cause and trap value 0. -/
def execEcall (s : State) : Result := raise (ecallException s.priv) 0#64 s

/-- `EBREAK` (R163): always traps; the informative value is `pc` (R194). -/
def execEbreak (s : State) : Result := raise .breakpoint s.pc s

/-- `MRET` (R160). -/
def execMret (s : State) : Result :=
  if s.priv = .M then
    .next (retire s none
      { s with mstatus := statusMret s.mstatus, priv := s.mstatus.mpp, pc := mepcVal s })
  else raiseIllegal .mret s

/-- `SRET` (R161). `TSR` is never set, since no write sets it (R50, log 13). -/
def execSret (s : State) : Result :=
  if s.priv = .U then raiseIllegal .sret s
  else
    .next (retire s none
      { s with mstatus := statusSret s.mstatus, priv := sretMode s.mstatus, pc := sepcVal s })

/-- The wait of a `WFI` is limited: below M-mode with `TW` = 1, or in U-mode (R164). -/
def wfiLimited (s : State) : Bool := (s.priv != .M && s.mstatus.tw) || s.priv == .U

/-- This `WFI` waits: outcome (b) is drawn and nothing wakes it yet (R164). -/
def wfiStartsWait (s : State) : Bool := Config.wfiWaits s.draws && !wakes s

/-- This `WFI` times out at once: it is limited, and outcome (c) is drawn or a wait is drawn with `TW_LIMIT` = 0
(R164). -/
def wfiTimesOutAtOnce (s : State) : Bool :=
  wfiLimited s && (Config.wfiTimesOut s.draws || (wfiStartsWait s && s.par.twLimit == 0))

/-- The hart begins to wait: the `WFI` has not completed, so no counter steps (R164, log 17). -/
def startWait (s : State) : State := { s with waiting := true, waitSteps := 0, draws := s.draws + 1 }

/-- `WFI` completes: no operation but `pc + 4` (R164 outcome a, and b on waking). -/
def wfiDone (s : State) : State :=
  retire s none { s with pc := s.pc + 4#64, waiting := false, waitSteps := 0 }

/-- `WFI` (R164): one of the outcomes its guards allow, drawn. -/
def execWfi (s : State) : Result :=
  if wfiTimesOutAtOnce s then raiseIllegal .wfi s
  else .next (if wfiStartsWait s then startWait s else wfiDone s)

end Sys2Proof.Machine
end

