-- ==== Sys2Proof/Machine/Boundary.lean ====
section
/-! DEFINITION. One step of the hart: the instruction boundary (60_exceptions.md R188), the wait of `WFI`
(41_trap_system.md R164), the fetch (20_memory.md R100, R107) and the instruction. -/

namespace Sys2Proof.Machine

/-- `mip` after the platform drives its inputs: bits 3, 7, 11 and the platform interrupts take the levels given, bit 1
can only be set (R183, D38). -/
def drivenMip (s : State) (p : PlatformInput) : Word :=
  mergeBits (intMask s.par &&& ~~~0x2222#64) s.mip
    (flagAt p.msip 3 ||| flagAt p.mtip 7 ||| flagAt p.meip 11 ||| (p.irqs &&& ~~~0xFFFF#64)) |||
  flagAt p.setSsip 1

/-- The platform acts at a boundary: its next input, if one is queued, and `time` (R12, R26, R183). -/
def platformActs (s : State) : State :=
  match s.platform with
  | [] => { s with time := s.time + BitVec.ofNat 64 (Config.timeAdvance s.draws) }
  | p :: rest =>
    { s with
      time := s.time + BitVec.ofNat 64 (Config.timeAdvance s.draws)
      mip := drivenMip s p
      extSeip := p.extSeip
      platform := rest }

/-- A waiting hart has waited as long as it may, or the draw ends the wait (R164 outcome c). -/
def waitTimesOut (s : State) : Bool :=
  wfiLimited s && (decide (s.par.twLimit ≤ s.waitSteps) || Config.wfiTimesOut s.draws)

/-- The hart takes no step: only the wait is counted (R164). -/
def keepWaiting (s : State) : State := { s with waitSteps := s.waitSteps + 1, draws := s.draws + 1 }

/-- Waking ends the wait (R164 outcome b). Where the wait is limited outcome (c) may apply too, and R164 names no winner:
a draw takes one of the two (log 32). -/
def wakeEndsWait (s : State) : Bool := wakes s && !(wfiLimited s && Config.wfiTimesOut s.draws)

/-- A waiting hart at a boundary: on waking the `WFI` completes, and an interrupt that then qualifies is taken by the
next step, whose `pc` is the address after the `WFI` (R12, R188, log 18); otherwise it times out or goes on waiting
(R164). -/
def waitStep (s : State) : Result :=
  if wakeEndsWait s then .next (wfiDone s)
  else if waitTimesOut s then raiseIllegal .wfi s
  else .next (keepWaiting s)

/-- Fetch, decode and execute the instruction at `pc` (R100, R107, R120, R125). -/
def runInstruction (s : State) : Result :=
  match fetchBytes s with
  | none => raise .instrAccessFault s.pc s
  | some bytes =>
    match decode bytes with
    | .instr i _ => exec i s
    | .compressed half =>
      if s.par.hasC then .refused .compressedInstruction
      else raise .illegalInstruction (half.zeroExtend 64) s
    | .notInTable _ => .refused .wordNotInTable
    | .tooShort => raise .instrAccessFault s.pc s

/-- The hart at a boundary: a waiting hart waits; else an interrupt that qualifies is taken before the next
instruction is fetched (R188, R190); else the instruction runs. -/
def hartActs (s : State) : Result :=
  if s.waiting then waitStep s
  else
    match pendingInterrupt s with
    | some i => takeTrap true i 0#64 s
    | none => runInstruction s

end Sys2Proof.Machine
end

