-- ==== Sys2Proof/Safety.lean ====
section
/-! DEFINITION. The terms claims are made in: the states the machine keeps to, and what "unchanged" means. -/

namespace Sys2Proof.Machine

/-- What every state after reset keeps to: parameters within their ranges (R5), memory in canonical form, `pc` a
multiple of `IALIGN`/8 (R14), read-only-zero bits zero (R43, R52 to R54, R58, R61, R64, R34), `MODE` 0 or 1 (R55,
R31). -/
structure Legal (s : State) : Prop where
  params : s.par.wellFormed = true
  memory : s.mem.wf = true
  pcAligned : s.pc &&& epcLow s.par = 0#64
  medeleg : s.medeleg &&& ~~~medelegMask = 0#64
  mideleg : s.mideleg &&& ~~~sIntMask = 0#64
  mie : s.mie &&& ~~~intMask s.par = 0#64
  mip : s.mip &&& ~~~intMask s.par = 0#64
  inhibit : s.mcountinhibit &&& ~~~inhibitMask = 0#32
  mtvecMode : s.mtvec.getLsbD 1 = false
  stvecMode : s.stvec.getLsbD 1 = false
  mepc : s.mepc &&& epcLow s.par = 0#64
  sepc : s.sepc &&& epcLow s.par = 0#64
  endian : s.par.bigEndian = false →
    s.mstatus.ube = false ∧ s.mstatus.sbe = false ∧ s.mstatus.mbe = false

/-- Every byte of memory reads the same. -/
def SameMemory (s t : State) : Prop := ∀ a, t.mem.read a = s.mem.read a

/-- Every general register but `rd` reads the same. -/
def SameRegsBut (rd : RegNum) (s t : State) : Prop := ∀ r, r ≠ rd → t.getX r = s.getX r

/-- `t` with everything counter stepping may touch (R83) taken from `s`: the counters, the `OF` bits, the pending
bit 13 of `mip`, and the index of free values. -/
def withCountersOf (s t : State) : State :=
  { t with
    mcycle := s.mcycle
    minstret := s.minstret
    mhpmcounter := s.mhpmcounter
    mhpmevent := Vector.ofFn fun n => mergeBits (flagAt true 63) t.mhpmevent[n] s.mhpmevent[n]
    mip := mergeBits (flagAt true 13) t.mip s.mip
    draws := s.draws }

/-- `t` with the storage of one register taken from `s`: of a view, the storage it is a view of; of a counter or a
read-only register, nothing. -/
def withCsrOf (c : Csr) (s t : State) : State :=
  match c with
  | .fflags => { t with fcsr := s.fcsr, mstatus := s.mstatus }
  | .frm => { t with fcsr := s.fcsr, mstatus := s.mstatus }
  | .fcsr => { t with fcsr := s.fcsr, mstatus := s.mstatus }
  | .sstatus => { t with mstatus := s.mstatus }
  | .sie => { t with mie := s.mie }
  | .stvec => { t with stvec := s.stvec, stvecWritten := s.stvecWritten }
  | .scounteren => { t with scounteren := s.scounteren }
  | .sscratch => { t with sscratch := s.sscratch }
  | .sepc => { t with sepc := s.sepc }
  | .scause => { t with scause := s.scause }
  | .stval => { t with stval := s.stval }
  | .sip => { t with mip := s.mip }
  | .mstatus => { t with mstatus := s.mstatus }
  | .medeleg => { t with medeleg := s.medeleg }
  | .mideleg => { t with mideleg := s.mideleg }
  | .mie => { t with mie := s.mie }
  | .mtvec => { t with mtvec := s.mtvec, mtvecWritten := s.mtvecWritten }
  | .mcounteren => { t with mcounteren := s.mcounteren }
  | .mcountinhibit => { t with mcountinhibit := s.mcountinhibit }
  | .mhpmevent n => { t with mhpmevent := t.mhpmevent.set n s.mhpmevent[n] }
  | .mscratch => { t with mscratch := s.mscratch }
  | .mepc => { t with mepc := s.mepc }
  | .mcause => { t with mcause := s.mcause }
  | .mtval => { t with mtval := s.mtval }
  | .mip => { t with mip := s.mip }
  | .mtinst => { t with mtinst := s.mtinst }
  | .mtval2 => { t with mtval2 := s.mtval2 }
  | .tselect => { t with tselect := s.tselect }
  | .tdata1 => { t with tdata1 := s.tdata1 }
  | .tdata2 => { t with tdata2 := s.tdata2 }
  | .tdata3 => { t with tdata3 := s.tdata3 }
  | .tinfo => { t with tinfo := s.tinfo }
  | .tcontrol => { t with tcontrol := s.tcontrol }
  | .mcontext => { t with mcontext := s.mcontext }
  | _ => t

/-- The operands of the six CSR instructions, seen alike: the CSR address and `rd`. -/
def csrOperands : Instr → Option (CsrAddr × RegNum)
  | .csrrw rd csr _ => some (csr, rd)
  | .csrrs rd csr _ => some (csr, rd)
  | .csrrc rd csr _ => some (csr, rd)
  | .csrrwi rd csr _ => some (csr, rd)
  | .csrrsi rd csr _ => some (csr, rd)
  | .csrrci rd csr _ => some (csr, rd)
  | _ => none

/-- The instruction writes its CSR (R149). -/
def writesCsr : Instr → Bool
  | .csrrw _ _ _ => true
  | .csrrs _ _ rs1 => rs1 != 0#5
  | .csrrc _ _ rs1 => rs1 != 0#5
  | .csrrwi _ _ _ => true
  | .csrrsi _ _ uimm => uimm != 0#5
  | .csrrci _ _ uimm => uimm != 0#5
  | _ => false

/-- The value the instruction writes to register `c` (R143 to R148). -/
def csrWriteValue (i : Instr) (s : State) (c : Csr) : Word :=
  match i with
  | .csrrw _ _ rs1 => s.getX rs1
  | .csrrs _ _ rs1 => csrRmwBase s c ||| s.getX rs1
  | .csrrc _ _ rs1 => csrRmwBase s c &&& ~~~s.getX rs1
  | .csrrwi _ _ uimm => uimm.zeroExtend 64
  | .csrrsi _ _ uimm => csrRmwBase s c ||| uimm.zeroExtend 64
  | .csrrci _ _ uimm => csrRmwBase s c &&& ~~~uimm.zeroExtend 64
  | _ => 0#64

/-- The register an instruction writes, if it writes one and its access check passes. -/
def csrWritten (i : Instr) (s : State) : Option Csr :=
  match csrOperands i with
  | some (a, _) => if writesCsr i then csrCheck s a true else none
  | none => none

/-- The state after the instruction's own CSR write, before the counters step. -/
def afterWrite (i : Instr) (s : State) : State :=
  match csrWritten i s with
  | some c => csrWrite s c (csrWriteValue i s c)
  | none => s

/-- What a read-modify-write forms its written value from (R144): the value read, with bit 9 of `mip` replaced by
`SEIP_sw`. -/
def rmwOld (s : State) (c : Csr) : Word :=
  if c = .mip then (csrRead s .mip &&& ~~~0x200#64) ||| (s.mip &&& 0x200#64) else csrRead s c

/-- How much event counter `N = n + 3` counts in a step that starts in `pre` and writes `wrote` (R83, R77): nothing
when it is not implemented, inhibited, selects no event (log 16) or is written, else the draw. The inhibit bit and the
selector are those of `pre` (log 14). -/
def eventCount (pre : State) (wrote : Option Csr) (n : Fin 29) : Nat :=
  if pre.par.nhpm ≤ n.val ∨ pre.mcountinhibit.getLsbD (n.val + 3) = true ∨
      pre.mhpmevent[n] &&& 0x03FFFFFFFFFFFFFF#64 = 0#64 ∨ wrote = some (.mhpmcounter n) then 0
  else Config.hpmEvents pre.draws (n.val + 3)

/-- An `OF` bit is 0 in `s` and 1 in `t`. -/
def OverflowRose (s t : State) : Prop :=
  ∃ n : Fin 29, s.mhpmevent[n].getLsbD 63 = false ∧ t.mhpmevent[n].getLsbD 63 = true

/-- `t` is `w` after one application of counter stepping (R83), for a step that started in `pre`, wrote the register
`wrote` and retired an instruction or not: each counter grows by 1, or by its draw, unless it is inhibited or written;
an event counter that wraps sets `OF`, and an `OF` that rises makes interrupt 13 pending (R59, R77). Inhibits are those
of `pre` (log 14), and `OF` and `mip` bit 13 are judged on and set over what the step wrote (log 15). -/
def CountersStep (pre w : State) (wrote : Option Csr) (retired : Bool) (t : State) : Prop :=
  t.mcycle = (if pre.mcountinhibit.getLsbD 0 = true ∨ wrote = some .mcycle then w.mcycle
    else w.mcycle + BitVec.ofNat 64 (1 + Config.extraCycles pre.draws)) ∧
  t.minstret = (if retired = false ∨ pre.mcountinhibit.getLsbD 2 = true ∨ wrote = some .minstret then w.minstret
    else w.minstret + 1#64) ∧
  (∀ n : Fin 29,
    t.mhpmcounter[n] = w.mhpmcounter[n] + BitVec.ofNat 64 (eventCount pre wrote n) ∧
    t.mhpmevent[n] = w.mhpmevent[n] |||
      (if 2 ^ 64 ≤ w.mhpmcounter[n].toNat + eventCount pre wrote n then 0x8000000000000000#64 else 0#64)) ∧
  (∀ k, k ≠ 13 → t.mip.getLsbD k = w.mip.getLsbD k) ∧
  (t.mip.getLsbD 13 = true ↔ w.mip.getLsbD 13 = true ∨ OverflowRose w t)

/-- `t` is `s` after an M-mode trap entry (R192) with the saved pc of `s`: the registers R192 lists hold what it says,
the trap value is the informative value or 0, as the setting has it (R194), nothing retires, and nothing else changes but by counter
stepping. -/
def EntersM (isIntr : Bool) (code : Nat) (info : Word) (s t : State) : Prop :=
  t.mepc = s.pc &&& ~~~epcLow s.par ∧
  t.mcause = ((if isIntr then 0x8000000000000000#64 else 0#64) ||| BitVec.ofNat 64 code) ∧
  (t.mtval = info ∨ t.mtval = 0#64) ∧
  (s.par.trapValue = .exact → t.mtval = info) ∧
  (s.par.trapValue = .zero → t.mtval = 0#64) ∧
  t.mtinst = 0#64 ∧
  t.mtval2 = 0#64 ∧
  t.mstatus = { s.mstatus with mpie := s.mstatus.mie, mie := false, mpp := s.priv } ∧
  t.priv = .M ∧
  t.pc = (s.mtvec &&& ~~~3#64) +
    (if isIntr = true ∧ s.mtvec.extractLsb' 0 2 = 1#2 then BitVec.ofNat 64 (4 * code) else 0#64) ∧
  t.waiting = false ∧
  t.minstret = s.minstret ∧
  withCountersOf s { t with
    mepc := s.mepc, mcause := s.mcause, mtval := s.mtval, mtinst := s.mtinst, mtval2 := s.mtval2,
    mstatus := s.mstatus, priv := s.priv, pc := s.pc, waiting := s.waiting, waitSteps := s.waitSteps } = s

/-- `t` is `s` after an S-mode trap entry (R193), read as `EntersM`. -/
def EntersS (isIntr : Bool) (code : Nat) (info : Word) (s t : State) : Prop :=
  t.sepc = s.pc &&& ~~~epcLow s.par ∧
  t.scause = ((if isIntr then 0x8000000000000000#64 else 0#64) ||| BitVec.ofNat 64 code) ∧
  (t.stval = info ∨ t.stval = 0#64) ∧
  (s.par.trapValue = .exact → t.stval = info) ∧
  (s.par.trapValue = .zero → t.stval = 0#64) ∧
  t.mstatus = { s.mstatus with spie := s.mstatus.sie, sie := false, spp := s.priv == .S } ∧
  t.priv = .S ∧
  t.pc = (s.stvec &&& ~~~3#64) +
    (if isIntr = true ∧ s.stvec.extractLsb' 0 2 = 1#2 then BitVec.ofNat 64 (4 * code) else 0#64) ∧
  t.waiting = false ∧
  t.minstret = s.minstret ∧
  withCountersOf s { t with
    sepc := s.sepc, scause := s.scause, stval := s.stval,
    mstatus := s.mstatus, priv := s.priv, pc := s.pc, waiting := s.waiting, waitSteps := s.waitSteps } = s

/-- An exception is handled in S-mode: it occurs below M-mode and its `medeleg` bit is set (R195). -/
def toSupervisor (s : State) (code : Nat) : Prop := s.priv ≠ .M ∧ (csrRead s .medeleg).getLsbD code = true

/-- `r` takes the exception with this code and informative value, at the level of R195, where an instruction has written
the vector of that level (R237). -/
def TakesException (r : Result) (code : Nat) (info : Word) (s : State) : Prop :=
  (toSupervisor s code → s.stvecWritten = true → ∃ t, r = .next t ∧ EntersS false code info s t) ∧
  (¬ toSupervisor s code → s.mtvecWritten = true → ∃ t, r = .next t ∧ EntersM false code info s t)

/-- `r` takes interrupt `i`, at the level whose condition it meets (R184, R187, R189), where an instruction has written
the vector of that level (R237). -/
def TakesInterrupt (r : Result) (i : Nat) (s : State) : Prop :=
  (mTrap s i = false → s.stvecWritten = true → ∃ t, r = .next t ∧ EntersS true i 0#64 s t) ∧
  (mTrap s i = true → s.mtvecWritten = true → ∃ t, r = .next t ∧ EntersM true i 0#64 s t)

/-- `r` is a next state that a CSR instruction reaches from `s` by its own effect: `rd` holds the value register `c`
read, `pc` moved on by 4, every other general register is as before, and all else but the counters is as in `w`. -/
def CompletesAccess (r : Result) (s : State) (c : Csr) (rd : RegNum) (w : State) : Prop :=
  ∃ t, r = .next t ∧
    t.getX rd = (if rd = 0#5 then 0#64 else csrRead s c) ∧
    SameRegsBut rd s t ∧
    t.pc = s.pc + 4#64 ∧
    withCountersOf s { t with x := s.x, pc := s.pc } = withCountersOf s w

end Sys2Proof.Machine
end

