-- ==== Sys2Proof/Certificates/Slice0/Obligations.lean ====
section
/-! DEFINITION. The statements for the provers. Each docstring names the rule of spec/ the statement formalises; a
clause that rests on a choice of the model names its log entry. -/

open Sys2Proof Sys2Proof.Machine

/-! ## Reset -/

/-- What reset leaves, for every setting of the parameters (R230), and that no interrupt can be taken at the first
boundary whatever `mip`, `mie` and `mideleg` hold. -/
def Obligations.ResetLeavesMachineMode : Prop :=
  ∀ (p : Params) (mip mie mideleg : Word),
    let s := State.resetWith p
    s.priv = .M ∧ s.pc = p.resetVector ∧ s.mstatus.mie = false ∧ s.mstatus.mprv = false ∧
    s.mstatus.mbe = false ∧ s.mstatus.sbe = false ∧ s.mstatus.ube = false ∧
    csrRead s .misa = p.misa ∧ s.mcause = 0#64 ∧ s.waiting = false ∧
    pendingInterrupt { s with mip := mip, mie := mie, mideleg := mideleg } = none

/-- The state after reset is legal, for every well-formed setting of the parameters and for `State.reset` itself. -/
def Obligations.ResetIsLegal : Prop :=
  (∀ p : Params, p.wellFormed = true → Legal (State.resetWith p)) ∧ Legal State.reset

/-! ## Encoding -/

/-- Words written out from 30_encoding.md R123, R124, R128 and the examples of R143 to R152 decode to the instructions
they stand for. -/
def Obligations.SampleWordsDecode : Prop :=
  decodeWord 0x34029373#32 = some (.csrrw 6#5 0x340#12 5#5) ∧
  decodeWord 0x3002A073#32 = some (.csrrs 0#5 0x300#12 5#5) ∧
  decodeWord 0x3043B473#32 = some (.csrrc 8#5 0x304#12 7#5) ∧
  decodeWord 0x340AD073#32 = some (.csrrwi 0#5 0x340#12 21#5) ∧
  decodeWord 0x30046073#32 = some (.csrrsi 0#5 0x300#12 8#5) ∧
  decodeWord 0x300474F3#32 = some (.csrrci 9#5 0x300#12 8#5) ∧
  decodeWord 0xC0202673#32 = some (.csrrs 12#5 0xC02#12 0#5) ∧
  decodeWord 0x00000073#32 = some .ecall ∧
  decodeWord 0x00100073#32 = some .ebreak ∧
  decodeWord 0x10200073#32 = some .sret ∧
  decodeWord 0x30200073#32 = some .mret ∧
  decodeWord 0x10500073#32 = some .wfi

/-- Decoding the bytes of any instruction, with any bytes after them, gives it back (R121 to R126). -/
def Obligations.DecodeOfEncode : Prop :=
  ∀ (i : Instr) (rest : List Byte), decode (encodeBytes i ++ rest) = .instr i rest

/-- Bytes that decode to an instruction are that instruction's bytes: each word has one meaning (R123, R124). -/
def Obligations.EncodeOfDecode : Prop :=
  ∀ (bytes rest : List Byte) (i : Instr), decode bytes = .instr i rest → bytes = encodeBytes i ++ rest

/-! ## The step -/

/-- At a boundary where the hart does not wait and no interrupt qualifies, a step runs the instruction the four bytes at
`pc` decode to, on the state in which the platform has acted; the platform's action changes only `time`, `mip`,
`ext_seip` and its own queue. -/
def Obligations.StepRunsDecodedInstruction : Prop :=
  ∀ (s : State) (b0 b1 b2 b3 : Byte) (i : Instr),
    s.waiting = false → pendingInterrupt (platformActs s) = none →
    s.mem.read s.pc = some b0 → s.mem.read (s.pc + 1#64) = some b1 →
    s.mem.read (s.pc + 2#64) = some b2 → s.mem.read (s.pc + 3#64) = some b3 →
    decode [b0, b1, b2, b3] = .instr i [] →
    step s = exec i (platformActs s) ∧
    { platformActs s with time := s.time, mip := s.mip, extSeip := s.extSeip, platform := s.platform } = s

/-- Bytes that are no instruction of the table: a halfword without `0b11` in its low bits is refused when `HAS_C` and
raises Illegal instruction otherwise, with the halfword as informative value (R120; the value is log 21); a 32-bit
word outside the table is refused (R125). -/
def Obligations.UnlistedBytesStopOrTrap : Prop :=
  ∀ (s : State) (b0 b1 b2 b3 : Byte),
    s.waiting = false → pendingInterrupt (platformActs s) = none →
    s.mem.read s.pc = some b0 → s.mem.read (s.pc + 1#64) = some b1 →
    s.mem.read (s.pc + 2#64) = some b2 → s.mem.read (s.pc + 3#64) = some b3 →
    (b0.extractLsb' 0 2 ≠ 3#2 → s.par.hasC = true → step s = .refused .compressedInstruction) ∧
    (b0.extractLsb' 0 2 ≠ 3#2 → s.par.hasC = false →
      TakesException (step s) 2 ((b1 ++ b0).zeroExtend 64) (platformActs s)) ∧
    (b0.extractLsb' 0 2 = 3#2 → decodeWord (b3 ++ b2 ++ b1 ++ b0) = none → step s = .refused .wordNotInTable)

/-- A fetch of which some byte is not backed raises Instruction access fault, with the fetch address as informative
value (R107; that all four bytes are fetched is log 10). -/
def Obligations.UnbackedFetchTakesAccessFault : Prop :=
  ∀ (s : State) (k : Nat), k < 4 →
    s.waiting = false → pendingInterrupt (platformActs s) = none →
    s.mem.read (s.pc + BitVec.ofNat 64 k) = none →
    TakesException (step s) 1 s.pc (platformActs s)

/-- A step that answers a next state leaves every byte of memory and every parameter as it was: no instruction in scope
stores (R100, R242) and the parameters are constants (R5). -/
def Obligations.StepKeepsMemoryAndParameters : Prop :=
  ∀ s t : State, step s = .next t → SameMemory s t ∧ t.par = s.par

/-- The legal states are kept by every step: memory in canonical form, `pc` aligned, read-only-zero bits zero, `MODE`
0 or 1 (R14, R43, R52 to R55, R58, R61, R64). -/
def Obligations.StepKeepsLegal : Prop :=
  ∀ s t : State, Legal s → step s = .next t → Legal t

/-- What the platform may change at a boundary. Its interrupt inputs (R183): bits 3, 7, 11 and `ext_seip` take its levels,
bit 1 is only set, the platform interrupts that exist take its levels (D38), and every other bit of `mip` keeps its value
(bit 9 is the software latch); the input is used up; with no input queued all of `mip` and `ext_seip` stay (log 8). `time`
moves on by a draw, modulo 2^64 (R26, log 11). The hart's other state is untouched. -/
def Obligations.PlatformDrivesOnlyItsBits : Prop :=
  ∀ s : State,
    let t := platformActs s
    t.time = s.time + BitVec.ofNat 64 (Config.timeAdvance s.draws) ∧
    { t with time := s.time, mip := s.mip, extSeip := s.extSeip, platform := s.platform } = s ∧
    (s.platform = [] → t.mip = s.mip ∧ t.extSeip = s.extSeip ∧ t.platform = []) ∧
    (∀ (p : PlatformInput) (rest : List PlatformInput), s.platform = p :: rest →
      t.mip.getLsbD 3 = p.msip ∧ t.mip.getLsbD 7 = p.mtip ∧ t.mip.getLsbD 11 = p.meip ∧
      t.extSeip = p.extSeip ∧ t.mip.getLsbD 1 = (s.mip.getLsbD 1 || p.setSsip) ∧
      (∀ k, 16 ≤ k → s.par.platformIrqMask.getLsbD k = true → t.mip.getLsbD k = p.irqs.getLsbD k) ∧
      (∀ k, k ≠ 1 → k ≠ 3 → k ≠ 7 → k ≠ 11 → ¬ (16 ≤ k ∧ s.par.platformIrqMask.getLsbD k = true) →
        t.mip.getLsbD k = s.mip.getLsbD k) ∧
      t.platform = rest)

/-! ## The access check -/

/-- `CsrCheck` passes exactly when none of R140's five items holds. -/
def Obligations.AccessCheckIsTheFiveItems : Prop :=
  ∀ (s : State) (a : CsrAddr) (isWrite : Bool) (c : Csr),
    csrCheck s a isWrite = some c ↔
      (c.addr = a ∧
       (a.extractLsb' 8 2).toNat ≤ s.priv.code.toNat ∧
       ¬ (isWrite = true ∧ a.extractLsb' 10 2 = 3#2) ∧
       (0xC00 ≤ a.toNat → a.toNat ≤ 0xC1F →
         (s.priv ≠ .M → s.mcounteren.getLsbD (a.toNat - 0xC00) = true) ∧
         (s.priv = .U → s.scounteren.getLsbD (a.toNat - 0xC00) = true)) ∧
       (a = 0x001#12 ∨ a = 0x002#12 ∨ a = 0x003#12 → s.mstatus.fs ≠ 0#2))

/-- A CSR instruction whose access check fails raises Illegal instruction with its word as informative value and
changes nothing but by the trap entry (R140, R191, R194). -/
def Obligations.FailedCheckTakesIllegalInstruction : Prop :=
  ∀ (i : Instr) (s : State) (a : CsrAddr) (rd : RegNum),
    csrOperands i = some (a, rd) → csrCheck s a (writesCsr i) = none →
    TakesException (exec i s) 2 ((encode i).zeroExtend 64) s

/-- An instruction that writes (R149) is illegal on every address whose top two bits are 11, in every mode, even when
the value it writes would change nothing; one that does not write completes on a listed one in M-mode (R17). -/
def Obligations.ReadOnlyAddressesRejectWrites : Prop :=
  ∀ (i : Instr) (s : State) (a : CsrAddr) (rd : RegNum),
    csrOperands i = some (a, rd) → a.extractLsb' 10 2 = 3#2 →
    (writesCsr i = true → TakesException (exec i s) 2 ((encode i).zeroExtend 64) s) ∧
    (∀ c : Csr, writesCsr i = false → s.priv = .M → c.addr = a → CompletesAccess (exec i s) s c rd s)

/-! ## The six CSR instructions -/

/-- `CSRRW` (R143): `x[rd]` gets the value read, the CSR the old `x[rs1]` (so `rd` = `rs1` swaps), `pc` moves on by 4;
nothing else changes but the counters. -/
def Obligations.CsrrwReadsAndWrites : Prop :=
  ∀ (s : State) (rd rs1 : RegNum) (a : CsrAddr) (c : Csr),
    csrCheck s a true = some c →
    ¬ (c = .mstatus ∧ s.getX rs1 &&& 0x500000#64 ≠ 0#64) →
    CompletesAccess (exec (.csrrw rd a rs1) s) s c rd (csrWrite s c (s.getX rs1))

/-- `CSRRS` (R144): with `rs1` other than `x0` the bits of `x[rs1]` are set in the value read, in which `SEIP_sw` stands for
bit 9 of `mip`; with `x0` nothing is written. The premise leaves out the write R50 refuses. -/
def Obligations.CsrrsReadsAndSets : Prop :=
  ∀ (s : State) (rd rs1 : RegNum) (a : CsrAddr) (c : Csr),
    csrCheck s a (rs1 != 0#5) = some c →
    (rs1 ≠ 0#5 → c = .mstatus → (csrRead s .mstatus ||| s.getX rs1) &&& 0x500000#64 = 0#64) →
    CompletesAccess (exec (.csrrs rd a rs1) s) s c rd
      (if rs1 = 0#5 then s else csrWrite s c (rmwOld s c ||| s.getX rs1))

/-- `CSRRC` (R145): as `CSRRS` with clear for set. -/
def Obligations.CsrrcReadsAndClears : Prop :=
  ∀ (s : State) (rd rs1 : RegNum) (a : CsrAddr) (c : Csr),
    csrCheck s a (rs1 != 0#5) = some c →
    (rs1 ≠ 0#5 → c = .mstatus → csrRead s .mstatus &&& ~~~s.getX rs1 &&& 0x500000#64 = 0#64) →
    CompletesAccess (exec (.csrrc rd a rs1) s) s c rd
      (if rs1 = 0#5 then s else csrWrite s c (rmwOld s c &&& ~~~s.getX rs1))

/-- `CSRRWI` (R146): always a write, of the immediate zero-extended; it reaches no bit whose setting is refused. -/
def Obligations.CsrrwiReadsAndWrites : Prop :=
  ∀ (s : State) (rd : RegNum) (uimm : BitVec 5) (a : CsrAddr) (c : Csr),
    csrCheck s a true = some c →
    CompletesAccess (exec (.csrrwi rd a uimm) s) s c rd (csrWrite s c (BitVec.ofNat 64 uimm.toNat))

/-- `CSRRSI` (R147): the immediate's value decides whether there is a write; else as `CSRRS`. -/
def Obligations.CsrrsiReadsAndSets : Prop :=
  ∀ (s : State) (rd : RegNum) (uimm : BitVec 5) (a : CsrAddr) (c : Csr),
    csrCheck s a (uimm != 0#5) = some c →
    (uimm ≠ 0#5 → c = .mstatus → csrRead s .mstatus &&& 0x500000#64 = 0#64) →
    CompletesAccess (exec (.csrrsi rd a uimm) s) s c rd
      (if uimm = 0#5 then s else csrWrite s c (rmwOld s c ||| BitVec.ofNat 64 uimm.toNat))

/-- `CSRRCI` (R148). -/
def Obligations.CsrrciReadsAndClears : Prop :=
  ∀ (s : State) (rd : RegNum) (uimm : BitVec 5) (a : CsrAddr) (c : Csr),
    csrCheck s a (uimm != 0#5) = some c →
    (uimm ≠ 0#5 → c = .mstatus → csrRead s .mstatus &&& 0x500000#64 = 0#64) →
    CompletesAccess (exec (.csrrci rd a uimm) s) s c rd
      (if uimm = 0#5 then s else csrWrite s c (rmwOld s c &&& ~~~BitVec.ofNat 64 uimm.toNat))

/-- A write of `mstatus` in M-mode is refused exactly when the value written has 1 in bit 20 or 22 (R50), in whatever way
it comes to hold the bit: from the source, or from the value read, of which these bits are free under R50's free setting
(R144, R145, R147, R148). -/
def Obligations.SettingTrapControlIsRefused : Prop :=
  ∀ (s : State) (rd rs1 : RegNum) (uimm : BitVec 5), s.priv = .M →
    let bits := 0x500000#64
    let old := csrRead s .mstatus
    (exec (.csrrw rd 0x300#12 rs1) s = .refused .statusTrapControl ↔ s.getX rs1 &&& bits ≠ 0#64) ∧
    (exec (.csrrs rd 0x300#12 rs1) s = .refused .statusTrapControl ↔
      rs1 ≠ 0#5 ∧ (old ||| s.getX rs1) &&& bits ≠ 0#64) ∧
    (exec (.csrrc rd 0x300#12 rs1) s = .refused .statusTrapControl ↔
      rs1 ≠ 0#5 ∧ old &&& ~~~s.getX rs1 &&& bits ≠ 0#64) ∧
    exec (.csrrwi rd 0x300#12 uimm) s ≠ .refused .statusTrapControl ∧
    (exec (.csrrsi rd 0x300#12 uimm) s = .refused .statusTrapControl ↔ uimm ≠ 0#5 ∧ old &&& bits ≠ 0#64) ∧
    (exec (.csrrci rd 0x300#12 uimm) s = .refused .statusTrapControl ↔ uimm ≠ 0#5 ∧ old &&& bits ≠ 0#64)

/-- The frame of the six CSR instructions: one that completes changes no general register but `rd`, no byte of memory,
no storage but that of the register it writes (none, where it does not write), `pc` and the counters; the counters, the
`OF` bits and `mip` bit 13 are those the write left, stepped once (R83; log 14 to 16). -/
def Obligations.CsrInstructionsFrame : Prop :=
  ∀ (i : Instr) (s t : State) (a : CsrAddr) (rd : RegNum) (c : Csr),
    csrOperands i = some (a, rd) → csrCheck s a (writesCsr i) = some c → exec i s = .next t →
    SameRegsBut rd s t ∧ SameMemory s t ∧
    (if writesCsr i = true then withCsrOf c s (withCountersOf s { t with x := s.x, pc := s.pc }) = s
     else withCountersOf s { t with x := s.x, pc := s.pc } = s) ∧
    (if writesCsr i = true then CountersStep s (csrWrite s c (csrWriteValue i s c)) (some c) true t
     else CountersStep s s none true t)

/-- `x0` (R15): it reads 0, and a CSR instruction with `rd` = `x0` leaves every general register as it was. -/
def Obligations.RegisterZeroDiscardsWrites : Prop :=
  ∀ (i : Instr) (s t : State) (a : CsrAddr),
    csrOperands i = some (a, 0#5) → exec i s = .next t → t.x = s.x ∧ t.getX 0#5 = 0#64

/-! ## The status register -/

/-- A write of `mstatus` (R39 to R49), through `CSRRW` in M-mode: every named writable field takes its bits of the value
written, except that `MPP` keeps its value when the field written is 0b10; `SXL` and `UXL` stay 2; the endianness bits
follow the value only where big-endian is supported, and read 0 otherwise. A read shows each field in its place, and under
R50's setting "standard" `SD` as `FS` and `VS` have it and 0 in the other unnamed bits. -/
def Obligations.MstatusTakesWrittenBits : Prop :=
  ∀ (s : State) (rd rs1 : RegNum), s.priv = .M → s.getX rs1 &&& 0x500000#64 = 0#64 →
    ∃ t, exec (.csrrw rd 0x300#12 rs1) s = .next t ∧
      let v := s.getX rs1
      let m := t.mstatus
      let big := if s.par.bigEndian then 0x3000000040#64 else 0#64
      csrRead t .mstatus &&& 0x3F002E7FEA#64 =
        0xA00000000#64 ||| (v &&& (0x2E67AA#64 ||| big)) |||
        (if v.extractLsb' 11 2 = 2#2 then csrRead s .mstatus else v) &&& 0x1800#64 ∧
      (s.par.unnamedBits = .standard → csrRead t .mstatus &&& ~~~0x3F002E7FEA#64 =
        if v.extractLsb' 13 2 = 3#2 ∨ v.extractLsb' 9 2 = 3#2 then 0x8000000000000000#64 else 0#64) ∧
      m.sie = v.getLsbD 1 ∧ m.mie = v.getLsbD 3 ∧ m.spie = v.getLsbD 5 ∧ m.mpie = v.getLsbD 7 ∧
      m.spp = v.getLsbD 8 ∧ m.vs = v.extractLsb' 9 2 ∧ m.fs = v.extractLsb' 13 2 ∧ m.mprv = v.getLsbD 17 ∧
      m.sum = v.getLsbD 18 ∧ m.mxr = v.getLsbD 19 ∧ m.tw = v.getLsbD 21 ∧
      (v.extractLsb' 11 2 = 0#2 → m.mpp = .U) ∧ (v.extractLsb' 11 2 = 1#2 → m.mpp = .S) ∧
      (v.extractLsb' 11 2 = 3#2 → m.mpp = .M) ∧ (v.extractLsb' 11 2 = 2#2 → m.mpp = s.mstatus.mpp) ∧
      (s.par.bigEndian = true → m.ube = v.getLsbD 6 ∧ m.sbe = v.getLsbD 36 ∧ m.mbe = v.getLsbD 37)

/-- A write of `sstatus` (R29), through `CSRRW` in S-mode or M-mode: the supervisor's writable bits of `mstatus` take
their bits of the value written, and every other named bit of `mstatus` keeps its value. -/
def Obligations.SstatusIsAViewOfMstatus : Prop :=
  ∀ (s : State) (rd rs1 : RegNum), s.priv ≠ .U →
    ∃ t, exec (.csrrw rd 0x100#12 rs1) s = .next t ∧
      let w := 0xC6722#64 ||| (if s.par.bigEndian then 0x40#64 else 0#64)
      csrRead t .mstatus &&& 0x3F002E7FEA#64 =
        ((csrRead s .mstatus &&& ~~~w) ||| (s.getX rs1 &&& w)) &&& 0x3F002E7FEA#64 ∧
      t.getX rd = (if rd = 0#5 then 0#64 else csrRead s .mstatus &&& 0x80000003000DE762#64)

/-- The floating-point CSRs (R22 to R24, R44): they are windows on the eight bits of `fcsr`; a write that passes the
check sets `FS` to 3; with `FS` = 0 every access is illegal. -/
def Obligations.FloatCsrsAreWindowsOnFcsr : Prop :=
  ∀ (s : State) (rd rs1 : RegNum),
    (s.mstatus.fs ≠ 0#2 →
      ∃ t1 t2 t3, exec (.csrrw rd 0x001#12 rs1) s = .next t1 ∧ exec (.csrrw rd 0x002#12 rs1) s = .next t2 ∧
        exec (.csrrw rd 0x003#12 rs1) s = .next t3 ∧
        t1.fcsr = s.fcsr.extractLsb' 5 3 ++ (s.getX rs1).extractLsb' 0 5 ∧
        t2.fcsr = (s.getX rs1).extractLsb' 0 3 ++ s.fcsr.extractLsb' 0 5 ∧
        t3.fcsr = (s.getX rs1).extractLsb' 0 8 ∧
        t1.mstatus = { s.mstatus with fs := 3#2 } ∧ t2.mstatus = { s.mstatus with fs := 3#2 } ∧
        t3.mstatus = { s.mstatus with fs := 3#2 } ∧
        t1.getX rd = (if rd = 0#5 then 0#64 else (s.fcsr.extractLsb' 0 5).zeroExtend 64) ∧
        t2.getX rd = (if rd = 0#5 then 0#64 else (s.fcsr.extractLsb' 5 3).zeroExtend 64) ∧
        t3.getX rd = (if rd = 0#5 then 0#64 else s.fcsr.zeroExtend 64)) ∧
    (s.mstatus.fs = 0#2 → ∀ (i : Instr) (a : CsrAddr),
      csrOperands i = some (a, rd) → (a = 0x001#12 ∨ a = 0x002#12 ∨ a = 0x003#12) →
      TakesException (exec i s) 2 ((encode i).zeroExtend 64) s)

/-! ## The trap registers -/

/-- A write of `mtvec` in M-mode or `stvec` above U-mode (R55, R31): the writable bits of `BASE` take the bits written,
`MODE` takes the field written when that is 0 or 1 and keeps its value otherwise. A read returns what is stored. -/
def Obligations.TrapVectorsTakeBaseAndLegalMode : Prop :=
  ∀ (s : State) (rd rs1 : RegNum) (k : Nat), k < 64 →
    (s.priv = .M → ∃ t, exec (.csrrw rd 0x305#12 rs1) s = .next t ∧
      t.mtvec.getLsbD k =
        (if 2 ≤ k then (if s.par.mtvecBaseMask.getLsbD k then (s.getX rs1).getLsbD k else s.mtvec.getLsbD k)
         else if (s.getX rs1).getLsbD 1 then s.mtvec.getLsbD k else (s.getX rs1).getLsbD k) ∧
      t.mtvecWritten = true ∧ csrRead t .mtvec = t.mtvec ∧ t.getX rd = if rd = 0#5 then 0#64 else s.mtvec) ∧
    (s.priv ≠ .U → ∃ t, exec (.csrrw rd 0x105#12 rs1) s = .next t ∧
      t.stvec.getLsbD k =
        (if 2 ≤ k then (if s.par.stvecBaseMask.getLsbD k then (s.getX rs1).getLsbD k else s.stvec.getLsbD k)
         else if (s.getX rs1).getLsbD 1 then s.stvec.getLsbD k else (s.getX rs1).getLsbD k) ∧
      t.stvecWritten = true ∧ csrRead t .stvec = t.stvec ∧ t.getX rd = if rd = 0#5 then 0#64 else s.stvec)

/-- `mepc` and `sepc` (R61, R34): bit 0 is dropped, and bit 1 too without `HAS_C`, from every value written. -/
def Obligations.SavedPcsDropTheirLowBits : Prop :=
  ∀ (s : State) (rd rs1 : RegNum) (k : Nat), k < 64 →
    (s.priv = .M → ∃ t, exec (.csrrw rd 0x341#12 rs1) s = .next t ∧
      (csrRead t .mepc).getLsbD k =
        ((s.getX rs1).getLsbD k && decide (2 ≤ k ∨ (k = 1 ∧ s.par.hasC = true)))) ∧
    (s.priv ≠ .U → ∃ t, exec (.csrrw rd 0x141#12 rs1) s = .next t ∧
      (csrRead t .sepc).getLsbD k =
        ((s.getX rs1).getLsbD k && decide (2 ≤ k ∨ (k = 1 ∧ s.par.hasC = true))))

/-- The plain registers of trap handling (R33, R35, R60, R62): a write stores all 64 bits and a read returns them. -/
def Obligations.PlainTrapRegistersStoreEveryBit : Prop :=
  ∀ (s : State) (rd rs1 : RegNum) (c : Csr),
    (c = .mscratch ∨ c = .mcause → s.priv = .M → ∃ t, exec (.csrrw rd c.addr rs1) s = .next t ∧
      csrRead t c = s.getX rs1 ∧ t.getX rd = (if rd = 0#5 then 0#64 else csrRead s c)) ∧
    (c = .sscratch ∨ c = .scause → s.priv ≠ .U → ∃ t, exec (.csrrw rd c.addr rs1) s = .next t ∧
      csrRead t c = s.getX rs1 ∧ t.getX rd = (if rd = 0#5 then 0#64 else csrRead s c))

/-- `mtval` and `stval` (R63, R36): a write is legal; it changes the register only when `MTVAL_SW_WRITABLE`. `mtinst`
and `mtval2` (R66, R67): a write stores the value or 0. A read of any of the four returns what is stored. -/
def Obligations.TrapValueRegistersFollowTheirWriteRules : Prop :=
  ∀ (s : State) (rd rs1 : RegNum),
    let reads := fun (t : State) (v : Word) => t.getX rd = if rd = 0#5 then 0#64 else v
    (s.priv = .M → ∃ t, exec (.csrrw rd 0x343#12 rs1) s = .next t ∧ reads t s.mtval ∧ csrRead t .mtval = t.mtval ∧
      t.mtval = if s.par.mtvalWritable then s.getX rs1 else s.mtval) ∧
    (s.priv ≠ .U → ∃ t, exec (.csrrw rd 0x143#12 rs1) s = .next t ∧ reads t s.stval ∧ csrRead t .stval = t.stval ∧
      t.stval = if s.par.mtvalWritable then s.getX rs1 else s.stval) ∧
    (s.priv = .M → ∃ t, exec (.csrrw rd 0x34A#12 rs1) s = .next t ∧ reads t s.mtinst ∧ csrRead t .mtinst = t.mtinst ∧
      (t.mtinst = s.getX rs1 ∨ t.mtinst = 0#64)) ∧
    (s.priv = .M → ∃ t, exec (.csrrw rd 0x34B#12 rs1) s = .next t ∧ reads t s.mtval2 ∧ csrRead t .mtval2 = t.mtval2 ∧
      (t.mtval2 = s.getX rs1 ∨ t.mtval2 = 0#64))

/-- The masks of the delegation, enable and inhibit registers (R52, R53, R54, R57, R32, R58): after a write a read
returns the value written under the register's mask. -/
def Obligations.MaskedRegistersReadBackTheirBits : Prop :=
  ∀ (s : State) (rd rs1 : RegNum) (c : Csr) (m : Word),
    ((c = .medeleg ∧ m = 0xCB3FF#64) ∨ (c = .mideleg ∧ m = 0x2222#64) ∨
     (c = .mie ∧ m = (0x2AAA#64 ||| (s.par.platformIrqMask &&& 0xFFFFFFFFFFFF0000#64))) ∨
     (c = .mcounteren ∧ m = 0xFFFFFFFF#64) ∨ (c = .mcountinhibit ∧ m = 0xFFFFFFFD#64) ∨
     (c = .scounteren ∧ m = 0xFFFFFFFF#64)) →
    s.priv = .M →
    ∃ t, exec (.csrrw rd c.addr rs1) s = .next t ∧ csrRead t c = s.getX rs1 &&& m

/-! ## The interrupt registers -/

/-- `sie` and `sip` (R30, R37): a read shows the delegated supervisor bits and 0 elsewhere, bit 9 of `sip` as
`SEIP_sw | ext_seip`; a write reaches only delegated supervisor bits of `mie` and, of `mip`, only `SSIP` and `LCOFIP`. Bit 13
then holds what the write left there, or 1 where an `OF` bit rose in the step: that the overflow (R77) comes on top of the
write is the model's choice (log 15, DESIGN CHOICE). -/
def Obligations.SupervisorInterruptViewsReachDelegatedBits : Prop :=
  ∀ (s : State) (rd rs1 : RegNum) (k : Nat), k < 64 → s.priv ≠ .U →
    let shown := fun b : Bool => (rd != 0#5 && (decide (k = 1 ∨ k = 5 ∨ k = 9 ∨ k = 13) && s.mideleg.getLsbD k)) && b
    (∃ t, exec (.csrrw rd 0x104#12 rs1) s = .next t ∧
      (t.getX rd).getLsbD k = shown (s.mie.getLsbD k) ∧
      t.mie.getLsbD k = (if (k = 1 ∨ k = 5 ∨ k = 9 ∨ k = 13) ∧ s.mideleg.getLsbD k = true
        then (s.getX rs1).getLsbD k else s.mie.getLsbD k)) ∧
    (∃ t, exec (.csrrw rd 0x144#12 rs1) s = .next t ∧
      (t.getX rd).getLsbD k = shown (s.mip.getLsbD k || (k == 9 && s.extSeip)) ∧
      (k ≠ 13 → t.mip.getLsbD k = (if k = 1 ∧ s.mideleg.getLsbD 1 = true
        then (s.getX rs1).getLsbD 1 else s.mip.getLsbD k)) ∧
      (t.mip.getLsbD 13 = true ↔
        (if s.mideleg.getLsbD 13 then (s.getX rs1).getLsbD 13 else s.mip.getLsbD 13) = true ∨ OverflowRose s t))

/-- `mip` (R64, R65, R143 to R145). A read gives the bits of the interrupts that exist, bit 9 as `SEIP_sw | ext_seip`, and 0
elsewhere. A write of `v` gives bits 1, 5, 9 and 13 the bits of `v` and leaves every other bit; setting or clearing forms `v`
from the stored bits, the latch `SEIP_sw` from its own value alone. Bit 13 is 1 besides where an `OF` bit rose in the step:
that the overflow (R77) comes on top of the write is the model's choice (log 15, DESIGN CHOICE). -/
def Obligations.MipReadModifyWriteUsesTheLatch : Prop :=
  ∀ (s : State) (rd rs1 : RegNum) (k : Nat), s.priv = .M → k < 64 →
    let x := (s.getX rs1).getLsbD k
    let old := s.mip.getLsbD k
    let known := decide (k = 1 ∨ k = 3 ∨ k = 5 ∨ k = 7 ∨ k = 9 ∨ k = 11 ∨ k = 13) ||
      (decide (16 ≤ k) && s.par.platformIrqMask.getLsbD k)
    let after := fun (v : Bool) (t : State) =>
      (rd ≠ 0#5 → (t.getX rd).getLsbD k = ((known && old) || (k == 9 && s.extSeip))) ∧
      t.extSeip = s.extSeip ∧
      (k = 1 ∨ k = 5 ∨ k = 9 → t.mip.getLsbD k = v) ∧
      (k = 13 → (t.mip.getLsbD k = true ↔ v = true ∨ OverflowRose s t)) ∧
      (k ≠ 1 → k ≠ 5 → k ≠ 9 → k ≠ 13 → t.mip.getLsbD k = old)
    (∃ t, exec (.csrrw rd 0x344#12 rs1) s = .next t ∧ after x t) ∧
    (rs1 ≠ 0#5 → ∃ t, exec (.csrrs rd 0x344#12 rs1) s = .next t ∧ after (old || x) t) ∧
    (rs1 ≠ 0#5 → ∃ t, exec (.csrrc rd 0x344#12 rs1) s = .next t ∧ after (old && !x) t)

/-! ## Counters, information and debug registers -/

/-- Reading the counters. The user counters are read-only shadows (R25, R27, R28, R26): reading one with `CSRRS rd, csr, x0`
(RDCYCLE, RDTIME, RDINSTRET: R150 to R152) completes where the counter enables allow it, and gives the machine counter's
value from before the step's own increment. In M-mode the machine counters (R75, R76, R77) read the same; there is none for
`time` (R21). -/
def Obligations.UserCountersShadowMachineCounters : Prop :=
  ∀ (s : State) (rd : RegNum) (k : Nat), k < 32 → rd ≠ 0#5 →
    let reads := fun t : State =>
      (k = 0 → t.getX rd = s.mcycle) ∧ (k = 1 → t.getX rd = s.time) ∧ (k = 2 → t.getX rd = s.minstret) ∧
      (∀ n : Fin 29, k = n.val + 3 → t.getX rd = if n.val < s.par.nhpm then s.mhpmcounter[n] else 0#64)
    ((s.priv ≠ .M → s.mcounteren.getLsbD k = true) → (s.priv = .U → s.scounteren.getLsbD k = true) →
      ∃ t, exec (.csrrs rd (BitVec.ofNat 12 (0xC00 + k)) 0#5) s = .next t ∧ reads t) ∧
    (s.priv = .M → k ≠ 1 → ∃ t, exec (.csrrs rd (BitVec.ofNat 12 (0xB00 + k)) 0#5) s = .next t ∧ reads t)

/-- `mcycle` and `minstret` over a completing CSR instruction (R75, R76, R83): one that is written holds exactly the value
written; one that is inhibited keeps its value; otherwise `minstret` grows by 1 and `mcycle` by 1 and the draw. The inhibit
bits are those from before the instruction (log 14). -/
def Obligations.CycleAndInstretStepUnlessInhibitedOrWritten : Prop :=
  ∀ (i : Instr) (s t : State) (a : CsrAddr) (rd : RegNum) (c : Csr),
    csrOperands i = some (a, rd) → csrCheck s a (writesCsr i) = some c → exec i s = .next t →
    t.minstret = (if writesCsr i = true ∧ c = .minstret then csrWriteValue i s c
      else if s.mcountinhibit.getLsbD 2 then s.minstret else s.minstret + 1#64) ∧
    t.mcycle = (if writesCsr i = true ∧ c = .mcycle then csrWriteValue i s c
      else if s.mcountinhibit.getLsbD 0 then s.mcycle
      else s.mcycle + BitVec.ofNat 64 (1 + Config.extraCycles s.draws))

/-- Counter stepping over instructions and steps (R83, R75 to R77, R59). An instruction that completes reaches a state with
the counters, the `OF` bits and `mip` bit 13 of the state its own write left, stepped once and retiring: an event counter
grows by its draw, by 0 when it is not implemented, inhibited, selects no event (log 16) or is written; when it wraps `OF` is
set, and interrupt 13 is made pending if `OF` was clear. One that traps steps the counters and retires nothing. A `WFI`, at
its execution and at a boundary of its wait, steps nothing while it waits (log 17), retires when it completes, and does not
when it times out. A step that takes an interrupt, or finds no instruction to run, steps the counters and retires nothing.
Inhibits and selectors are those from before the instruction (log 14), and `OF` is judged and set over what the instruction
wrote (log 15, DESIGN CHOICE). -/
def Obligations.EventCounterOverflowSetsOfAndInterrupt : Prop :=
  let afterWfi := fun s t : State =>
    (t.waiting = true ∧ t.mcycle = s.mcycle ∧ t.minstret = s.minstret ∧ t.mhpmcounter = s.mhpmcounter ∧
      t.mhpmevent = s.mhpmevent ∧ t.mip = s.mip) ∨
    (t.waiting = false ∧ t.pc = s.pc + 4#64 ∧ CountersStep s s none true t ∧
      withCountersOf s { t with pc := s.pc, waiting := s.waiting, waitSteps := s.waitSteps } = s) ∨
    (CountersStep s s none false t ∧ (EntersM false 2 0x10500073#64 s t ∨ EntersS false 2 0x10500073#64 s t))
  (∀ (i : Instr) (s t : State), exec i s = .next t →
    let traps := i = .ecall ∨ i = .ebreak ∨ (i = .mret ∧ s.priv ≠ .M) ∨ (i = .sret ∧ s.priv = .U) ∨
      ∃ a rd, csrOperands i = some (a, rd) ∧ csrCheck s a (writesCsr i) = none
    (traps → CountersStep s s none false t) ∧
    (¬ traps → i ≠ .wfi → CountersStep s (afterWrite i s) (csrWritten i s) true t) ∧
    (i = .wfi → afterWfi s t)) ∧
  (∀ s t : State, step s = .next t →
    (s.waiting = true → afterWfi (platformActs s) t) ∧
    (s.waiting = false →
      (pendingInterrupt (platformActs s) ≠ none ∨
        ∀ bytes i rest, fetchBytes (platformActs s) = some bytes → decode bytes ≠ .instr i rest) →
      CountersStep (platformActs s) (platformActs s) none false t))

/-- A counter or selector above `NHPM` + 2 reads 0 and ignores writes; an implemented one is storage (R77, R59). The
counter written does not step; a selector written reads the source, with `OF` set where its counter wraps in the step,
counting by the inhibit bit and selector from before (log 14 to 16). -/
def Obligations.UnimplementedEventCountersAreReadOnlyZero : Prop :=
  ∀ (s : State) (rd rs1 : RegNum) (n : Fin 29), s.priv = .M →
    (∃ t, exec (.csrrw rd (BitVec.ofNat 12 (0xB03 + n.val)) rs1) s = .next t ∧
      csrRead t (.mhpmcounter n) = if n.val < s.par.nhpm then s.getX rs1 else 0#64) ∧
    (∃ t, exec (.csrrw rd (BitVec.ofNat 12 (0x323 + n.val)) rs1) s = .next t ∧
      csrRead t (.mhpmevent n) =
        if n.val < s.par.nhpm then
          s.getX rs1 ||| (if 2 ^ 64 ≤ s.mhpmcounter[n].toNat + eventCount s none n then 0x8000000000000000#64 else 0#64)
        else 0#64)

/-- `scountovf` (R38): bit N, for N = 3 to 31, is `mhpmeventN.OF`, shown in S-mode only where `mcounteren[N]` is 1; every
other bit reads 0. -/
def Obligations.ScountovfShowsOverflowBits : Prop :=
  ∀ (s : State) (k : Nat), k < 64 →
    ((csrRead s .scountovf).getLsbD k = true ↔
      ∃ n : Fin 29, k = n.val + 3 ∧ n.val < s.par.nhpm ∧ s.mhpmevent[n].getLsbD 63 = true ∧
        (s.priv = .S → s.mcounteren.getLsbD k = true))

/-- The information registers and `misa` (R51, R78 to R82): in M-mode a pure read gives the parameter, and a write of
`misa` completes and changes nothing but `rd`, `pc` and the counters. -/
def Obligations.ConstantRegistersReadTheirParameters : Prop :=
  ∀ (s : State) (rd rs1 : RegNum), s.priv = .M → rd ≠ 0#5 →
    (∀ c v, (c, v) ∈ [(Csr.mvendorid, s.par.mvendorid.zeroExtend 64), (.marchid, s.par.marchid),
        (.mimpid, s.par.mimpid), (.mhartid, s.par.mhartid), (.mconfigptr, s.par.mconfigptr), (.misa, s.par.misa)] →
      ∃ t, exec (.csrrs rd c.addr 0#5) s = .next t ∧ t.getX rd = v) ∧
    CompletesAccess (exec (.csrrw rd 0x301#12 rs1) s) s .misa rd s

/-- The seven debug registers (section 8 of 10_state.md, R68 to R74): in M-mode no access traps; under the setting "no
triggers" a read gives 0 and a write changes nothing but `rd`, `pc` and the counters. -/
def Obligations.DebugRegistersAreInertWithoutTriggers : Prop :=
  ∀ (s : State) (rd rs1 : RegNum) (c : Csr),
    c ∈ [Csr.tselect, .tdata1, .tdata2, .tdata3, .tinfo, .tcontrol, .mcontext] → s.priv = .M →
    ∃ t, exec (.csrrw rd c.addr rs1) s = .next t ∧
      (s.par.triggers = .noTriggers →
        t.getX rd = 0#64 ∧ withCountersOf s { t with x := s.x, pc := s.pc } = s)

/-! ## Traps -/

/-- A trap that is not delegated enters M-mode as R192 says: an exception or an interrupt, from any mode. -/
def Obligations.TrapEntersMachineMode : Prop :=
  ∀ (s : State) (isIntr : Bool) (code : Nat) (info : Word),
    delegated s isIntr code = false → s.mtvecWritten = true →
    ∃ t, takeTrap isIntr code info s = .next t ∧ EntersM isIntr code info s t

/-- A delegated trap enters S-mode as R193 says, and leaves the M-level trap registers alone. -/
def Obligations.DelegatedTrapEntersSupervisorMode : Prop :=
  ∀ (s : State) (isIntr : Bool) (code : Nat) (info : Word),
    delegated s isIntr code = true → s.stvecWritten = true →
    ∃ t, takeTrap isIntr code info s = .next t ∧ EntersS isIntr code info s t ∧
      t.mepc = s.mepc ∧ t.mcause = s.mcause ∧ t.mtval = s.mtval ∧ t.mtinst = s.mtinst ∧ t.mtval2 = s.mtval2 ∧
      t.mstatus.mpie = s.mstatus.mpie ∧ t.mstatus.mie = s.mstatus.mie ∧ t.mstatus.mpp = s.mstatus.mpp

/-- What follows from R195's first condition (R197): a trap in M-mode is never delegated, so no trap lowers the privilege
mode; code 11 is never delegated; with nothing delegated every trap is an M-mode trap; an S-mode trap is entered from
U-mode or S-mode only. -/
def Obligations.TrapNeverLowersPrivilege : Prop :=
  (∀ (s t : State) (isIntr : Bool) (code : Nat) (info : Word), takeTrap isIntr code info s = .next t →
    s.priv.code.toNat ≤ t.priv.code.toNat ∧
    (s.priv = .M → t.priv = .M ∧ t.sepc = s.sepc ∧ t.scause = s.scause ∧ t.stval = s.stval) ∧
    (csrRead s .medeleg = 0#64 → csrRead s .mideleg = 0#64 → t.priv = .M) ∧
    (t.priv = .S → s.priv = .U ∨ s.priv = .S)) ∧
  (∀ s : State, delegated s false 11 = false) ∧
  (∀ (s : State) (isIntr : Bool) (code : Nat), s.priv = .M → delegated s isIntr code = false)

/-- The trap target (R199): `BASE` for every trap in `MODE` 0 and for exceptions in `MODE` 1, `BASE` plus 4 times the
code for an interrupt in `MODE` 1, wrapping; it is always a multiple of 4. -/
def Obligations.TrapTargetIsBaseOrVectored : Prop :=
  ∀ (tvec : Word) (isIntr : Bool) (code : Nat),
    (isIntr = true → tvec.extractLsb' 0 2 = 1#2 →
      (trapTarget tvec isIntr code).toNat = (4 * (tvec.toNat / 4) + 4 * code) % 2 ^ 64) ∧
    (isIntr = false ∨ tvec.extractLsb' 0 2 ≠ 1#2 → (trapTarget tvec isIntr code).toNat = 4 * (tvec.toNat / 4)) ∧
    (trapTarget tvec isIntr code).toNat % 4 = 0

/-- A trap through a vector no instruction has written is a fault (R237, I1), in taking a trap and in the instruction that
raises it: so from reset, whatever the parameters, an `ECALL` or an `EBREAK` is a fault, and no jump. -/
def Obligations.UnwrittenVectorIsAFault : Prop :=
  (∀ (s : State) (isIntr : Bool) (code : Nat) (info : Word),
    (delegated s isIntr code = false → s.mtvecWritten = false →
      takeTrap isIntr code info s = .fault .mtvecUnwritten) ∧
    (delegated s isIntr code = true → s.stvecWritten = false →
      takeTrap isIntr code info s = .fault .stvecUnwritten)) ∧
  (∀ p : Params, exec .ecall (State.resetWith p) = .fault .mtvecUnwritten ∧
    exec .ebreak (State.resetWith p) = .fault .mtvecUnwritten)

/-- `ECALL` (R162): it always traps, with the cause of the mode it is made from, trap value 0 and its own address saved;
it writes no general register and never retires. -/
def Obligations.EcallTakesEnvironmentCall : Prop :=
  encode .ecall = 0x00000073#32 ∧
  ∀ s : State,
    TakesException (exec .ecall s) (match s.priv with | .U => 8 | .S => 9 | .M => 11) 0#64 s

/-- `EBREAK` (R163): it always traps with code 3, its own address saved, and `pc` or 0 as trap value. -/
def Obligations.EbreakTakesBreakpoint : Prop :=
  encode .ebreak = 0x00100073#32 ∧
  ∀ s : State, TakesException (exec .ebreak s) 3 s.pc s

/-- `MRET` (R160) in M-mode: the new mode is `MPP`, `MIE` takes `MPIE`, `MPIE` is set, `MPP` becomes U, `MPRV` is cleared
when the new mode is below M, `pc` takes `mepc`, and the instruction retires; nothing else changes but the counters. In
S-mode and U-mode it raises Illegal instruction. -/
def Obligations.MretReturnsFromMachineTrap : Prop :=
  ∀ s : State,
    (s.priv = .M → ∃ t, exec .mret s = .next t ∧
      t.priv = s.mstatus.mpp ∧
      t.mstatus = { s.mstatus with
        mie := s.mstatus.mpie, mpie := true, mpp := .U,
        mprv := if s.mstatus.mpp = .M then s.mstatus.mprv else false } ∧
      t.pc = csrRead s .mepc ∧
      t.minstret = (if s.mcountinhibit.getLsbD 2 then s.minstret else s.minstret + 1#64) ∧
      withCountersOf s { t with priv := s.priv, mstatus := s.mstatus, pc := s.pc } = s) ∧
    (s.priv ≠ .M → TakesException (exec .mret s) 2 0x30200073#64 s)

/-- `SRET` (R161) in S-mode or M-mode: the new mode is that of `SPP`, `SIE` takes `SPIE`, `SPIE` is set, `SPP` and `MPRV`
are cleared, `pc` takes `sepc`, and the instruction retires; nothing else changes but the counters. In U-mode it raises
Illegal instruction. (The refusal with `TSR` set cannot arise: log 13.) -/
def Obligations.SretReturnsFromSupervisorTrap : Prop :=
  ∀ s : State,
    (s.priv ≠ .U → ∃ t, exec .sret s = .next t ∧
      t.priv = (if s.mstatus.spp then .S else .U) ∧
      t.mstatus = { s.mstatus with sie := s.mstatus.spie, spie := true, spp := false, mprv := false } ∧
      t.pc = csrRead s .sepc ∧
      t.minstret = (if s.mcountinhibit.getLsbD 2 then s.minstret else s.minstret + 1#64) ∧
      withCountersOf s { t with priv := s.priv, mstatus := s.mstatus, pc := s.pc } = s) ∧
    (s.priv = .U → TakesException (exec .sret s) 2 0x10200073#64 s)

/-- `WFI` (R164): with an interrupt pending and enabled in `mie`, and its wait not limited, it completes: `pc` moves on by 4
and nothing else changes but the counters. In general, where its wait is not limited it either completes so or, if no
interrupt is pending and enabled, begins to wait with `pc` unchanged; where it is limited it may also raise Illegal
instruction, and it does not begin a wait when `TW_LIMIT` is 0. -/
def Obligations.WfiRetiresWaitsOrTimesOut : Prop :=
  ∀ s : State,
    let limited := (s.priv ≠ .M ∧ s.mstatus.tw = true) ∨ s.priv = .U
    let awake := csrRead s .mie &&& csrRead s .mip ≠ 0#64
    let unchanged := fun t : State =>
      withCountersOf s { t with pc := s.pc, waiting := s.waiting, waitSteps := s.waitSteps } = s
    let completes := fun t : State => unchanged t ∧ t.waiting = false ∧ t.pc = s.pc + 4#64 ∧
      t.minstret = (if s.mcountinhibit.getLsbD 2 then s.minstret else s.minstret + 1#64)
    let waits := fun t : State => unchanged t ∧ t.waiting = true ∧ t.pc = s.pc ∧ t.waitSteps = 0 ∧
      t.minstret = s.minstret ∧ ¬ awake ∧ (limited → s.par.twLimit ≠ 0)
    (¬ limited → awake → ∃ t, exec .wfi s = .next t ∧ completes t) ∧
    (¬ limited → ∃ t, exec .wfi s = .next t ∧ (completes t ∨ waits t)) ∧
    (limited →
      (∃ t, exec .wfi s = .next t ∧ (completes t ∨ waits t)) ∨ TakesException (exec .wfi s) 2 0x10500073#64 s)

/-- A waiting hart (R164). An interrupt pending and enabled in `mie` ends the wait whatever the global enables: the step
completes the `WFI` at `pc + 4` and changes nothing else but the counters, and an interrupt that then qualifies is taken by
the next step, with the address after the `WFI` saved (R12, log 18); where the wait is limited the step may time out instead,
by a draw (log 32). With none and no limit the step answers a state that still waits, with only the model's own wait and draw
counts changed (the hang a model must show; that no counter steps is log 17). With none, a limited wait of `TW_LIMIT` steps
ends in Illegal instruction; a shorter one goes on or ends so. -/
def Obligations.WaitingHartWakesHangsOrTimesOut : Prop :=
  ∀ s : State, s.waiting = true →
    let b := platformActs s
    let awake := csrRead b .mie &&& csrRead b .mip ≠ 0#64
    let limited := (s.priv ≠ .M ∧ s.mstatus.tw = true) ∨ s.priv = .U
    let completes := ∃ t, step s = .next t ∧ t.waiting = false ∧ t.pc = s.pc + 4#64 ∧ CountersStep b b none true t ∧
      withCountersOf b { t with pc := b.pc, waiting := b.waiting, waitSteps := b.waitSteps } = b ∧
      ∀ k, pendingInterrupt (platformActs t) = some k →
        (platformActs t).pc = s.pc + 4#64 ∧ TakesInterrupt (step t) k (platformActs t)
    let goesOn := ∃ t, step s = .next t ∧ t.waiting = true ∧ t.waitSteps = s.waitSteps + 1 ∧
      { t with waitSteps := b.waitSteps, draws := b.draws } = b
    let timesOut := TakesException (step s) 2 0x10500073#64 b
    (awake → ¬ limited → completes) ∧
    (awake → limited → completes ∨ timesOut) ∧
    (¬ awake → ¬ limited → goesOn) ∧
    (¬ awake → limited → s.par.twLimit ≤ s.waitSteps → timesOut) ∧
    (¬ awake → limited → s.waitSteps < s.par.twLimit → goesOn ∨ timesOut)

/-! ## Interrupts -/

/-- The condition of an M-mode interrupt trap (R184), and that a machine interrupt, whose code is 3, 7 or 11, never causes
an S-mode trap (R185), in every state. -/
def Obligations.MachineInterruptCondition : Prop :=
  (∀ (s : State) (i : Nat), mTrap s i = true ↔
    ((s.priv = .M ∧ s.mstatus.mie = true) ∨ s.priv ≠ .M) ∧
    (csrRead s .mip).getLsbD i = true ∧ (csrRead s .mie).getLsbD i = true ∧
    (csrRead s .mideleg).getLsbD i = false) ∧
  (∀ (s : State) (i : Nat), i = 3 ∨ i = 7 ∨ i = 11 → sTrap s i = false ∧ delegated s true i = false)

/-- The condition of an S-mode interrupt trap (R187); for a delegated interrupt the views `sip` and `sie` show the bits of
`mip` and `mie`; without the trap a delegated interrupt stays pending, since the M-mode condition fails for it too; and
none is taken in M-mode. -/
def Obligations.SupervisorInterruptCondition : Prop :=
  (∀ (s : State) (i : Nat), sTrap s i = true ↔
    s.priv ≠ .M ∧ (csrRead s .mideleg).getLsbD i = true ∧
    (csrRead s .sip).getLsbD i = true ∧ (csrRead s .sie).getLsbD i = true ∧
    (s.priv = .S → s.mstatus.sie = true) ∧
    (s.priv = .U → s.par.sieGatesU = true → s.mstatus.sie = true)) ∧
  (∀ (s : State) (i : Nat), (csrRead s .mideleg).getLsbD i = true →
    ((csrRead s .sip).getLsbD i = true ∧ (csrRead s .sie).getLsbD i = true ↔
      (csrRead s .mip).getLsbD i = true ∧ (csrRead s .mie).getLsbD i = true) ∧
    (sTrap s i = false → mTrap s i = false ∧ pendingInterrupt s ≠ some i) ∧
    (s.priv = .M → pendingInterrupt s ≠ some i))

/-- Interrupts at a boundary (R188, R189): if any interrupt qualifies one is taken, an M-mode trap before an S-mode trap
and within a level the one highest in R189's order, the platform's after it, lowest code first (log 20); if none qualifies
none is. -/
def Obligations.PendingInterruptFollowsPriority : Prop :=
  ∀ s : State,
    let order := [11, 3, 7, 9, 1, 5, 13] ++ (List.range 48).map (· + 16)
    (∀ i, pendingInterrupt s = some i →
      (mTrap s i = true ∧ ∀ j, mTrap s j = true → order.idxOf i ≤ order.idxOf j) ∨
      (sTrap s i = true ∧ (∀ j, mTrap s j = false) ∧
        ∀ j, sTrap s j = true → order.idxOf i ≤ order.idxOf j)) ∧
    (∀ i, pendingInterrupt s = some i → i ∈ order) ∧
    (pendingInterrupt s = none → ∀ j, mTrap s j = false ∧ sTrap s j = false)

/-- A qualifying interrupt is taken instead of the next instruction (R188, R192, R193, R198): the step enters the level
its condition names, with the address of the instruction not executed saved and trap value 0. -/
def Obligations.QualifyingInterruptIsTaken : Prop :=
  ∀ (s : State) (i : Nat), s.waiting = false → pendingInterrupt (platformActs s) = some i →
    TakesInterrupt (step s) i (platformActs s)

/-! ## The whole machine -/

/-- `priv` changes only by trap entry, `MRET` and `SRET` (R13, R205). -/
def Obligations.PrivilegeChangesOnlyByTrapOrReturn : Prop :=
  ∀ (i : Instr) (s t : State), exec i s = .next t → t.priv ≠ s.priv →
    i = .mret ∨ i = .sret ∨
    (∃ code info, EntersM false code info s t) ∨ (∃ code info, EntersS false code info s t)

/-- The modes below M cannot change the M-level state (R18, R193, R206): a step that starts and ends below M-mode leaves
the M-level registers, the fields of `mstatus` that `sstatus` does not show (but `MPRV`, which a return clears: R161),
the undelegated bits of `mie`, the selectors but for `OF`, and bits 5 and 9 of `mip` as they were. -/
def Obligations.LowerModesKeepMachineState : Prop :=
  ∀ s t : State, s.priv ≠ .M → t.priv ≠ .M → step s = .next t →
    t.medeleg = s.medeleg ∧ t.mideleg = s.mideleg ∧ t.mtvec = s.mtvec ∧ t.mcounteren = s.mcounteren ∧
    t.mcountinhibit = s.mcountinhibit ∧ t.mscratch = s.mscratch ∧ t.mepc = s.mepc ∧ t.mcause = s.mcause ∧
    t.mtval = s.mtval ∧ t.mtinst = s.mtinst ∧ t.mtval2 = s.mtval2 ∧
    t.tselect = s.tselect ∧ t.tdata1 = s.tdata1 ∧ t.tdata2 = s.tdata2 ∧ t.tdata3 = s.tdata3 ∧
    t.tinfo = s.tinfo ∧ t.tcontrol = s.tcontrol ∧ t.mcontext = s.mcontext ∧
    t.mstatus.mie = s.mstatus.mie ∧ t.mstatus.mpie = s.mstatus.mpie ∧ t.mstatus.mpp = s.mstatus.mpp ∧
    t.mstatus.tw = s.mstatus.tw ∧ t.mstatus.mbe = s.mstatus.mbe ∧ t.mstatus.sbe = s.mstatus.sbe ∧
    t.mie &&& ~~~csrRead s .mideleg = s.mie &&& ~~~csrRead s .mideleg ∧
    (∀ n : Fin 29, t.mhpmevent[n].extractLsb' 0 63 = s.mhpmevent[n].extractLsb' 0 63) ∧
    t.mip.getLsbD 5 = s.mip.getLsbD 5 ∧ t.mip.getLsbD 9 = s.mip.getLsbD 9 ∧ t.mtvecWritten = s.mtvecWritten

/-- The modes below M cannot learn `mscratch` (R18): two states that differ only in it step to outcomes that differ only
in it. -/
def Obligations.LowerModesCannotLearnMscratch : Prop :=
  ∀ (s : State) (v : Word), s.priv ≠ .M →
    step { s with mscratch := v } =
      match step s with
      | .next t => .next { t with mscratch := v }
      | .fault f => .fault f
      | .refused r => .refused r
end

