-- ==== Sys2Proof/Laws/State.lean ====
section
/-! SUPPORT. What each update of the state does to each field. -/

namespace Sys2Proof.Machine

/-! ## A write of a general register -/

@[simp] theorem setX_par (s : State) (r : RegNum) (v : Word) : (s.setX r v).par = s.par := by
  unfold State.setX; split <;> rfl
@[simp] theorem setX_priv (s : State) (r : RegNum) (v : Word) : (s.setX r v).priv = s.priv := by
  unfold State.setX; split <;> rfl
@[simp] theorem setX_pc (s : State) (r : RegNum) (v : Word) : (s.setX r v).pc = s.pc := by
  unfold State.setX; split <;> rfl
@[simp] theorem setX_mstatus (s : State) (r : RegNum) (v : Word) : (s.setX r v).mstatus = s.mstatus := by
  unfold State.setX; split <;> rfl
@[simp] theorem setX_medeleg (s : State) (r : RegNum) (v : Word) : (s.setX r v).medeleg = s.medeleg := by
  unfold State.setX; split <;> rfl
@[simp] theorem setX_mideleg (s : State) (r : RegNum) (v : Word) : (s.setX r v).mideleg = s.mideleg := by
  unfold State.setX; split <;> rfl
@[simp] theorem setX_mie (s : State) (r : RegNum) (v : Word) : (s.setX r v).mie = s.mie := by
  unfold State.setX; split <;> rfl
@[simp] theorem setX_mip (s : State) (r : RegNum) (v : Word) : (s.setX r v).mip = s.mip := by
  unfold State.setX; split <;> rfl
@[simp] theorem setX_extSeip (s : State) (r : RegNum) (v : Word) : (s.setX r v).extSeip = s.extSeip := by
  unfold State.setX; split <;> rfl
@[simp] theorem setX_mtvec (s : State) (r : RegNum) (v : Word) : (s.setX r v).mtvec = s.mtvec := by
  unfold State.setX; split <;> rfl
@[simp] theorem setX_mtvecWritten (s : State) (r : RegNum) (v : Word) : (s.setX r v).mtvecWritten = s.mtvecWritten := by
  unfold State.setX; split <;> rfl
@[simp] theorem setX_mcounteren (s : State) (r : RegNum) (v : Word) : (s.setX r v).mcounteren = s.mcounteren := by
  unfold State.setX; split <;> rfl
@[simp] theorem setX_mcountinhibit (s : State) (r : RegNum) (v : Word) : (s.setX r v).mcountinhibit = s.mcountinhibit := by
  unfold State.setX; split <;> rfl
@[simp] theorem setX_mhpmevent (s : State) (r : RegNum) (v : Word) : (s.setX r v).mhpmevent = s.mhpmevent := by
  unfold State.setX; split <;> rfl
@[simp] theorem setX_mscratch (s : State) (r : RegNum) (v : Word) : (s.setX r v).mscratch = s.mscratch := by
  unfold State.setX; split <;> rfl
@[simp] theorem setX_mepc (s : State) (r : RegNum) (v : Word) : (s.setX r v).mepc = s.mepc := by
  unfold State.setX; split <;> rfl
@[simp] theorem setX_mcause (s : State) (r : RegNum) (v : Word) : (s.setX r v).mcause = s.mcause := by
  unfold State.setX; split <;> rfl
@[simp] theorem setX_mtval (s : State) (r : RegNum) (v : Word) : (s.setX r v).mtval = s.mtval := by
  unfold State.setX; split <;> rfl
@[simp] theorem setX_mtinst (s : State) (r : RegNum) (v : Word) : (s.setX r v).mtinst = s.mtinst := by
  unfold State.setX; split <;> rfl
@[simp] theorem setX_mtval2 (s : State) (r : RegNum) (v : Word) : (s.setX r v).mtval2 = s.mtval2 := by
  unfold State.setX; split <;> rfl
@[simp] theorem setX_stvec (s : State) (r : RegNum) (v : Word) : (s.setX r v).stvec = s.stvec := by
  unfold State.setX; split <;> rfl
@[simp] theorem setX_stvecWritten (s : State) (r : RegNum) (v : Word) : (s.setX r v).stvecWritten = s.stvecWritten := by
  unfold State.setX; split <;> rfl
@[simp] theorem setX_scounteren (s : State) (r : RegNum) (v : Word) : (s.setX r v).scounteren = s.scounteren := by
  unfold State.setX; split <;> rfl
@[simp] theorem setX_sscratch (s : State) (r : RegNum) (v : Word) : (s.setX r v).sscratch = s.sscratch := by
  unfold State.setX; split <;> rfl
@[simp] theorem setX_sepc (s : State) (r : RegNum) (v : Word) : (s.setX r v).sepc = s.sepc := by
  unfold State.setX; split <;> rfl
@[simp] theorem setX_scause (s : State) (r : RegNum) (v : Word) : (s.setX r v).scause = s.scause := by
  unfold State.setX; split <;> rfl
@[simp] theorem setX_stval (s : State) (r : RegNum) (v : Word) : (s.setX r v).stval = s.stval := by
  unfold State.setX; split <;> rfl
@[simp] theorem setX_fcsr (s : State) (r : RegNum) (v : Word) : (s.setX r v).fcsr = s.fcsr := by
  unfold State.setX; split <;> rfl
@[simp] theorem setX_tselect (s : State) (r : RegNum) (v : Word) : (s.setX r v).tselect = s.tselect := by
  unfold State.setX; split <;> rfl
@[simp] theorem setX_tdata1 (s : State) (r : RegNum) (v : Word) : (s.setX r v).tdata1 = s.tdata1 := by
  unfold State.setX; split <;> rfl
@[simp] theorem setX_tdata2 (s : State) (r : RegNum) (v : Word) : (s.setX r v).tdata2 = s.tdata2 := by
  unfold State.setX; split <;> rfl
@[simp] theorem setX_tdata3 (s : State) (r : RegNum) (v : Word) : (s.setX r v).tdata3 = s.tdata3 := by
  unfold State.setX; split <;> rfl
@[simp] theorem setX_tinfo (s : State) (r : RegNum) (v : Word) : (s.setX r v).tinfo = s.tinfo := by
  unfold State.setX; split <;> rfl
@[simp] theorem setX_tcontrol (s : State) (r : RegNum) (v : Word) : (s.setX r v).tcontrol = s.tcontrol := by
  unfold State.setX; split <;> rfl
@[simp] theorem setX_mcontext (s : State) (r : RegNum) (v : Word) : (s.setX r v).mcontext = s.mcontext := by
  unfold State.setX; split <;> rfl
@[simp] theorem setX_mcycle (s : State) (r : RegNum) (v : Word) : (s.setX r v).mcycle = s.mcycle := by
  unfold State.setX; split <;> rfl
@[simp] theorem setX_minstret (s : State) (r : RegNum) (v : Word) : (s.setX r v).minstret = s.minstret := by
  unfold State.setX; split <;> rfl
@[simp] theorem setX_mhpmcounter (s : State) (r : RegNum) (v : Word) : (s.setX r v).mhpmcounter = s.mhpmcounter := by
  unfold State.setX; split <;> rfl
@[simp] theorem setX_time (s : State) (r : RegNum) (v : Word) : (s.setX r v).time = s.time := by
  unfold State.setX; split <;> rfl
@[simp] theorem setX_waiting (s : State) (r : RegNum) (v : Word) : (s.setX r v).waiting = s.waiting := by
  unfold State.setX; split <;> rfl
@[simp] theorem setX_waitSteps (s : State) (r : RegNum) (v : Word) : (s.setX r v).waitSteps = s.waitSteps := by
  unfold State.setX; split <;> rfl
@[simp] theorem setX_mem (s : State) (r : RegNum) (v : Word) : (s.setX r v).mem = s.mem := by
  unfold State.setX; split <;> rfl
@[simp] theorem setX_platform (s : State) (r : RegNum) (v : Word) : (s.setX r v).platform = s.platform := by
  unfold State.setX; split <;> rfl
@[simp] theorem setX_draws (s : State) (r : RegNum) (v : Word) : (s.setX r v).draws = s.draws := by
  unfold State.setX; split <;> rfl

/-! ## Counter stepping -/

@[simp] theorem stepCounters_par (pre : State) (w : Option Csr) (b : Bool) (s : State) : (stepCounters pre w b s).par = s.par := rfl
@[simp] theorem stepCounters_priv (pre : State) (w : Option Csr) (b : Bool) (s : State) : (stepCounters pre w b s).priv = s.priv := rfl
@[simp] theorem stepCounters_pc (pre : State) (w : Option Csr) (b : Bool) (s : State) : (stepCounters pre w b s).pc = s.pc := rfl
@[simp] theorem stepCounters_x (pre : State) (w : Option Csr) (b : Bool) (s : State) : (stepCounters pre w b s).x = s.x := rfl
@[simp] theorem stepCounters_mstatus (pre : State) (w : Option Csr) (b : Bool) (s : State) : (stepCounters pre w b s).mstatus = s.mstatus := rfl
@[simp] theorem stepCounters_medeleg (pre : State) (w : Option Csr) (b : Bool) (s : State) : (stepCounters pre w b s).medeleg = s.medeleg := rfl
@[simp] theorem stepCounters_mideleg (pre : State) (w : Option Csr) (b : Bool) (s : State) : (stepCounters pre w b s).mideleg = s.mideleg := rfl
@[simp] theorem stepCounters_mie (pre : State) (w : Option Csr) (b : Bool) (s : State) : (stepCounters pre w b s).mie = s.mie := rfl
@[simp] theorem stepCounters_mip (pre : State) (w : Option Csr) (b : Bool) (s : State) : (stepCounters pre w b s).mip = s.mip ||| flagAt (overflowRaised pre w s) 13 := rfl
@[simp] theorem stepCounters_extSeip (pre : State) (w : Option Csr) (b : Bool) (s : State) : (stepCounters pre w b s).extSeip = s.extSeip := rfl
@[simp] theorem stepCounters_mtvec (pre : State) (w : Option Csr) (b : Bool) (s : State) : (stepCounters pre w b s).mtvec = s.mtvec := rfl
@[simp] theorem stepCounters_mtvecWritten (pre : State) (w : Option Csr) (b : Bool) (s : State) : (stepCounters pre w b s).mtvecWritten = s.mtvecWritten := rfl
@[simp] theorem stepCounters_mcounteren (pre : State) (w : Option Csr) (b : Bool) (s : State) : (stepCounters pre w b s).mcounteren = s.mcounteren := rfl
@[simp] theorem stepCounters_mcountinhibit (pre : State) (w : Option Csr) (b : Bool) (s : State) : (stepCounters pre w b s).mcountinhibit = s.mcountinhibit := rfl
@[simp] theorem stepCounters_mscratch (pre : State) (w : Option Csr) (b : Bool) (s : State) : (stepCounters pre w b s).mscratch = s.mscratch := rfl
@[simp] theorem stepCounters_mepc (pre : State) (w : Option Csr) (b : Bool) (s : State) : (stepCounters pre w b s).mepc = s.mepc := rfl
@[simp] theorem stepCounters_mcause (pre : State) (w : Option Csr) (b : Bool) (s : State) : (stepCounters pre w b s).mcause = s.mcause := rfl
@[simp] theorem stepCounters_mtval (pre : State) (w : Option Csr) (b : Bool) (s : State) : (stepCounters pre w b s).mtval = s.mtval := rfl
@[simp] theorem stepCounters_mtinst (pre : State) (w : Option Csr) (b : Bool) (s : State) : (stepCounters pre w b s).mtinst = s.mtinst := rfl
@[simp] theorem stepCounters_mtval2 (pre : State) (w : Option Csr) (b : Bool) (s : State) : (stepCounters pre w b s).mtval2 = s.mtval2 := rfl
@[simp] theorem stepCounters_stvec (pre : State) (w : Option Csr) (b : Bool) (s : State) : (stepCounters pre w b s).stvec = s.stvec := rfl
@[simp] theorem stepCounters_stvecWritten (pre : State) (w : Option Csr) (b : Bool) (s : State) : (stepCounters pre w b s).stvecWritten = s.stvecWritten := rfl
@[simp] theorem stepCounters_scounteren (pre : State) (w : Option Csr) (b : Bool) (s : State) : (stepCounters pre w b s).scounteren = s.scounteren := rfl
@[simp] theorem stepCounters_sscratch (pre : State) (w : Option Csr) (b : Bool) (s : State) : (stepCounters pre w b s).sscratch = s.sscratch := rfl
@[simp] theorem stepCounters_sepc (pre : State) (w : Option Csr) (b : Bool) (s : State) : (stepCounters pre w b s).sepc = s.sepc := rfl
@[simp] theorem stepCounters_scause (pre : State) (w : Option Csr) (b : Bool) (s : State) : (stepCounters pre w b s).scause = s.scause := rfl
@[simp] theorem stepCounters_stval (pre : State) (w : Option Csr) (b : Bool) (s : State) : (stepCounters pre w b s).stval = s.stval := rfl
@[simp] theorem stepCounters_fcsr (pre : State) (w : Option Csr) (b : Bool) (s : State) : (stepCounters pre w b s).fcsr = s.fcsr := rfl
@[simp] theorem stepCounters_tselect (pre : State) (w : Option Csr) (b : Bool) (s : State) : (stepCounters pre w b s).tselect = s.tselect := rfl
@[simp] theorem stepCounters_tdata1 (pre : State) (w : Option Csr) (b : Bool) (s : State) : (stepCounters pre w b s).tdata1 = s.tdata1 := rfl
@[simp] theorem stepCounters_tdata2 (pre : State) (w : Option Csr) (b : Bool) (s : State) : (stepCounters pre w b s).tdata2 = s.tdata2 := rfl
@[simp] theorem stepCounters_tdata3 (pre : State) (w : Option Csr) (b : Bool) (s : State) : (stepCounters pre w b s).tdata3 = s.tdata3 := rfl
@[simp] theorem stepCounters_tinfo (pre : State) (w : Option Csr) (b : Bool) (s : State) : (stepCounters pre w b s).tinfo = s.tinfo := rfl
@[simp] theorem stepCounters_tcontrol (pre : State) (w : Option Csr) (b : Bool) (s : State) : (stepCounters pre w b s).tcontrol = s.tcontrol := rfl
@[simp] theorem stepCounters_mcontext (pre : State) (w : Option Csr) (b : Bool) (s : State) : (stepCounters pre w b s).mcontext = s.mcontext := rfl
@[simp] theorem stepCounters_mcycle (pre : State) (w : Option Csr) (b : Bool) (s : State) : (stepCounters pre w b s).mcycle = s.mcycle + cycleStep pre w := rfl
@[simp] theorem stepCounters_minstret (pre : State) (w : Option Csr) (b : Bool) (s : State) : (stepCounters pre w b s).minstret = s.minstret + instretStep pre w b := rfl
@[simp] theorem stepCounters_time (pre : State) (w : Option Csr) (b : Bool) (s : State) : (stepCounters pre w b s).time = s.time := rfl
@[simp] theorem stepCounters_waiting (pre : State) (w : Option Csr) (b : Bool) (s : State) : (stepCounters pre w b s).waiting = s.waiting := rfl
@[simp] theorem stepCounters_waitSteps (pre : State) (w : Option Csr) (b : Bool) (s : State) : (stepCounters pre w b s).waitSteps = s.waitSteps := rfl
@[simp] theorem stepCounters_mem (pre : State) (w : Option Csr) (b : Bool) (s : State) : (stepCounters pre w b s).mem = s.mem := rfl
@[simp] theorem stepCounters_platform (pre : State) (w : Option Csr) (b : Bool) (s : State) : (stepCounters pre w b s).platform = s.platform := rfl
@[simp] theorem stepCounters_draws (pre : State) (w : Option Csr) (b : Bool) (s : State) : (stepCounters pre w b s).draws = pre.draws + 1 := rfl

/-! ## M-mode trap entry -/

@[simp] theorem enterM_par (s : State) (b : Bool) (k : Nat) (v : Word) : (enterM s b k v).par = s.par := rfl
@[simp] theorem enterM_priv (s : State) (b : Bool) (k : Nat) (v : Word) : (enterM s b k v).priv = .M := rfl
@[simp] theorem enterM_pc (s : State) (b : Bool) (k : Nat) (v : Word) : (enterM s b k v).pc = trapTarget s.mtvec b k := rfl
@[simp] theorem enterM_x (s : State) (b : Bool) (k : Nat) (v : Word) : (enterM s b k v).x = s.x := rfl
@[simp] theorem enterM_mstatus (s : State) (b : Bool) (k : Nat) (v : Word) : (enterM s b k v).mstatus = statusEnterM s.priv s.mstatus := rfl
@[simp] theorem enterM_medeleg (s : State) (b : Bool) (k : Nat) (v : Word) : (enterM s b k v).medeleg = s.medeleg := rfl
@[simp] theorem enterM_mideleg (s : State) (b : Bool) (k : Nat) (v : Word) : (enterM s b k v).mideleg = s.mideleg := rfl
@[simp] theorem enterM_mie (s : State) (b : Bool) (k : Nat) (v : Word) : (enterM s b k v).mie = s.mie := rfl
@[simp] theorem enterM_mip (s : State) (b : Bool) (k : Nat) (v : Word) : (enterM s b k v).mip = s.mip := rfl
@[simp] theorem enterM_extSeip (s : State) (b : Bool) (k : Nat) (v : Word) : (enterM s b k v).extSeip = s.extSeip := rfl
@[simp] theorem enterM_mtvec (s : State) (b : Bool) (k : Nat) (v : Word) : (enterM s b k v).mtvec = s.mtvec := rfl
@[simp] theorem enterM_mtvecWritten (s : State) (b : Bool) (k : Nat) (v : Word) : (enterM s b k v).mtvecWritten = s.mtvecWritten := rfl
@[simp] theorem enterM_mcounteren (s : State) (b : Bool) (k : Nat) (v : Word) : (enterM s b k v).mcounteren = s.mcounteren := rfl
@[simp] theorem enterM_mcountinhibit (s : State) (b : Bool) (k : Nat) (v : Word) : (enterM s b k v).mcountinhibit = s.mcountinhibit := rfl
@[simp] theorem enterM_mhpmevent (s : State) (b : Bool) (k : Nat) (v : Word) : (enterM s b k v).mhpmevent = s.mhpmevent := rfl
@[simp] theorem enterM_mscratch (s : State) (b : Bool) (k : Nat) (v : Word) : (enterM s b k v).mscratch = s.mscratch := rfl
@[simp] theorem enterM_mepc (s : State) (b : Bool) (k : Nat) (v : Word) : (enterM s b k v).mepc = s.pc &&& ~~~epcLow s.par := rfl
@[simp] theorem enterM_mcause (s : State) (b : Bool) (k : Nat) (v : Word) : (enterM s b k v).mcause = causeWord b k := rfl
@[simp] theorem enterM_mtval (s : State) (b : Bool) (k : Nat) (v : Word) : (enterM s b k v).mtval = v := rfl
@[simp] theorem enterM_mtinst (s : State) (b : Bool) (k : Nat) (v : Word) : (enterM s b k v).mtinst = 0#64 := rfl
@[simp] theorem enterM_mtval2 (s : State) (b : Bool) (k : Nat) (v : Word) : (enterM s b k v).mtval2 = 0#64 := rfl
@[simp] theorem enterM_stvec (s : State) (b : Bool) (k : Nat) (v : Word) : (enterM s b k v).stvec = s.stvec := rfl
@[simp] theorem enterM_stvecWritten (s : State) (b : Bool) (k : Nat) (v : Word) : (enterM s b k v).stvecWritten = s.stvecWritten := rfl
@[simp] theorem enterM_scounteren (s : State) (b : Bool) (k : Nat) (v : Word) : (enterM s b k v).scounteren = s.scounteren := rfl
@[simp] theorem enterM_sscratch (s : State) (b : Bool) (k : Nat) (v : Word) : (enterM s b k v).sscratch = s.sscratch := rfl
@[simp] theorem enterM_sepc (s : State) (b : Bool) (k : Nat) (v : Word) : (enterM s b k v).sepc = s.sepc := rfl
@[simp] theorem enterM_scause (s : State) (b : Bool) (k : Nat) (v : Word) : (enterM s b k v).scause = s.scause := rfl
@[simp] theorem enterM_stval (s : State) (b : Bool) (k : Nat) (v : Word) : (enterM s b k v).stval = s.stval := rfl
@[simp] theorem enterM_fcsr (s : State) (b : Bool) (k : Nat) (v : Word) : (enterM s b k v).fcsr = s.fcsr := rfl
@[simp] theorem enterM_tselect (s : State) (b : Bool) (k : Nat) (v : Word) : (enterM s b k v).tselect = s.tselect := rfl
@[simp] theorem enterM_tdata1 (s : State) (b : Bool) (k : Nat) (v : Word) : (enterM s b k v).tdata1 = s.tdata1 := rfl
@[simp] theorem enterM_tdata2 (s : State) (b : Bool) (k : Nat) (v : Word) : (enterM s b k v).tdata2 = s.tdata2 := rfl
@[simp] theorem enterM_tdata3 (s : State) (b : Bool) (k : Nat) (v : Word) : (enterM s b k v).tdata3 = s.tdata3 := rfl
@[simp] theorem enterM_tinfo (s : State) (b : Bool) (k : Nat) (v : Word) : (enterM s b k v).tinfo = s.tinfo := rfl
@[simp] theorem enterM_tcontrol (s : State) (b : Bool) (k : Nat) (v : Word) : (enterM s b k v).tcontrol = s.tcontrol := rfl
@[simp] theorem enterM_mcontext (s : State) (b : Bool) (k : Nat) (v : Word) : (enterM s b k v).mcontext = s.mcontext := rfl
@[simp] theorem enterM_mcycle (s : State) (b : Bool) (k : Nat) (v : Word) : (enterM s b k v).mcycle = s.mcycle := rfl
@[simp] theorem enterM_minstret (s : State) (b : Bool) (k : Nat) (v : Word) : (enterM s b k v).minstret = s.minstret := rfl
@[simp] theorem enterM_mhpmcounter (s : State) (b : Bool) (k : Nat) (v : Word) : (enterM s b k v).mhpmcounter = s.mhpmcounter := rfl
@[simp] theorem enterM_time (s : State) (b : Bool) (k : Nat) (v : Word) : (enterM s b k v).time = s.time := rfl
@[simp] theorem enterM_waiting (s : State) (b : Bool) (k : Nat) (v : Word) : (enterM s b k v).waiting = false := rfl
@[simp] theorem enterM_waitSteps (s : State) (b : Bool) (k : Nat) (v : Word) : (enterM s b k v).waitSteps = 0 := rfl
@[simp] theorem enterM_mem (s : State) (b : Bool) (k : Nat) (v : Word) : (enterM s b k v).mem = s.mem := rfl
@[simp] theorem enterM_platform (s : State) (b : Bool) (k : Nat) (v : Word) : (enterM s b k v).platform = s.platform := rfl
@[simp] theorem enterM_draws (s : State) (b : Bool) (k : Nat) (v : Word) : (enterM s b k v).draws = s.draws := rfl

/-! ## S-mode trap entry -/

@[simp] theorem enterS_par (s : State) (b : Bool) (k : Nat) (v : Word) : (enterS s b k v).par = s.par := rfl
@[simp] theorem enterS_priv (s : State) (b : Bool) (k : Nat) (v : Word) : (enterS s b k v).priv = .S := rfl
@[simp] theorem enterS_pc (s : State) (b : Bool) (k : Nat) (v : Word) : (enterS s b k v).pc = trapTarget s.stvec b k := rfl
@[simp] theorem enterS_x (s : State) (b : Bool) (k : Nat) (v : Word) : (enterS s b k v).x = s.x := rfl
@[simp] theorem enterS_mstatus (s : State) (b : Bool) (k : Nat) (v : Word) : (enterS s b k v).mstatus = statusEnterS s.priv s.mstatus := rfl
@[simp] theorem enterS_medeleg (s : State) (b : Bool) (k : Nat) (v : Word) : (enterS s b k v).medeleg = s.medeleg := rfl
@[simp] theorem enterS_mideleg (s : State) (b : Bool) (k : Nat) (v : Word) : (enterS s b k v).mideleg = s.mideleg := rfl
@[simp] theorem enterS_mie (s : State) (b : Bool) (k : Nat) (v : Word) : (enterS s b k v).mie = s.mie := rfl
@[simp] theorem enterS_mip (s : State) (b : Bool) (k : Nat) (v : Word) : (enterS s b k v).mip = s.mip := rfl
@[simp] theorem enterS_extSeip (s : State) (b : Bool) (k : Nat) (v : Word) : (enterS s b k v).extSeip = s.extSeip := rfl
@[simp] theorem enterS_mtvec (s : State) (b : Bool) (k : Nat) (v : Word) : (enterS s b k v).mtvec = s.mtvec := rfl
@[simp] theorem enterS_mtvecWritten (s : State) (b : Bool) (k : Nat) (v : Word) : (enterS s b k v).mtvecWritten = s.mtvecWritten := rfl
@[simp] theorem enterS_mcounteren (s : State) (b : Bool) (k : Nat) (v : Word) : (enterS s b k v).mcounteren = s.mcounteren := rfl
@[simp] theorem enterS_mcountinhibit (s : State) (b : Bool) (k : Nat) (v : Word) : (enterS s b k v).mcountinhibit = s.mcountinhibit := rfl
@[simp] theorem enterS_mhpmevent (s : State) (b : Bool) (k : Nat) (v : Word) : (enterS s b k v).mhpmevent = s.mhpmevent := rfl
@[simp] theorem enterS_mscratch (s : State) (b : Bool) (k : Nat) (v : Word) : (enterS s b k v).mscratch = s.mscratch := rfl
@[simp] theorem enterS_mepc (s : State) (b : Bool) (k : Nat) (v : Word) : (enterS s b k v).mepc = s.mepc := rfl
@[simp] theorem enterS_mcause (s : State) (b : Bool) (k : Nat) (v : Word) : (enterS s b k v).mcause = s.mcause := rfl
@[simp] theorem enterS_mtval (s : State) (b : Bool) (k : Nat) (v : Word) : (enterS s b k v).mtval = s.mtval := rfl
@[simp] theorem enterS_mtinst (s : State) (b : Bool) (k : Nat) (v : Word) : (enterS s b k v).mtinst = s.mtinst := rfl
@[simp] theorem enterS_mtval2 (s : State) (b : Bool) (k : Nat) (v : Word) : (enterS s b k v).mtval2 = s.mtval2 := rfl
@[simp] theorem enterS_stvec (s : State) (b : Bool) (k : Nat) (v : Word) : (enterS s b k v).stvec = s.stvec := rfl
@[simp] theorem enterS_stvecWritten (s : State) (b : Bool) (k : Nat) (v : Word) : (enterS s b k v).stvecWritten = s.stvecWritten := rfl
@[simp] theorem enterS_scounteren (s : State) (b : Bool) (k : Nat) (v : Word) : (enterS s b k v).scounteren = s.scounteren := rfl
@[simp] theorem enterS_sscratch (s : State) (b : Bool) (k : Nat) (v : Word) : (enterS s b k v).sscratch = s.sscratch := rfl
@[simp] theorem enterS_sepc (s : State) (b : Bool) (k : Nat) (v : Word) : (enterS s b k v).sepc = s.pc &&& ~~~epcLow s.par := rfl
@[simp] theorem enterS_scause (s : State) (b : Bool) (k : Nat) (v : Word) : (enterS s b k v).scause = causeWord b k := rfl
@[simp] theorem enterS_stval (s : State) (b : Bool) (k : Nat) (v : Word) : (enterS s b k v).stval = v := rfl
@[simp] theorem enterS_fcsr (s : State) (b : Bool) (k : Nat) (v : Word) : (enterS s b k v).fcsr = s.fcsr := rfl
@[simp] theorem enterS_tselect (s : State) (b : Bool) (k : Nat) (v : Word) : (enterS s b k v).tselect = s.tselect := rfl
@[simp] theorem enterS_tdata1 (s : State) (b : Bool) (k : Nat) (v : Word) : (enterS s b k v).tdata1 = s.tdata1 := rfl
@[simp] theorem enterS_tdata2 (s : State) (b : Bool) (k : Nat) (v : Word) : (enterS s b k v).tdata2 = s.tdata2 := rfl
@[simp] theorem enterS_tdata3 (s : State) (b : Bool) (k : Nat) (v : Word) : (enterS s b k v).tdata3 = s.tdata3 := rfl
@[simp] theorem enterS_tinfo (s : State) (b : Bool) (k : Nat) (v : Word) : (enterS s b k v).tinfo = s.tinfo := rfl
@[simp] theorem enterS_tcontrol (s : State) (b : Bool) (k : Nat) (v : Word) : (enterS s b k v).tcontrol = s.tcontrol := rfl
@[simp] theorem enterS_mcontext (s : State) (b : Bool) (k : Nat) (v : Word) : (enterS s b k v).mcontext = s.mcontext := rfl
@[simp] theorem enterS_mcycle (s : State) (b : Bool) (k : Nat) (v : Word) : (enterS s b k v).mcycle = s.mcycle := rfl
@[simp] theorem enterS_minstret (s : State) (b : Bool) (k : Nat) (v : Word) : (enterS s b k v).minstret = s.minstret := rfl
@[simp] theorem enterS_mhpmcounter (s : State) (b : Bool) (k : Nat) (v : Word) : (enterS s b k v).mhpmcounter = s.mhpmcounter := rfl
@[simp] theorem enterS_time (s : State) (b : Bool) (k : Nat) (v : Word) : (enterS s b k v).time = s.time := rfl
@[simp] theorem enterS_waiting (s : State) (b : Bool) (k : Nat) (v : Word) : (enterS s b k v).waiting = false := rfl
@[simp] theorem enterS_waitSteps (s : State) (b : Bool) (k : Nat) (v : Word) : (enterS s b k v).waitSteps = 0 := rfl
@[simp] theorem enterS_mem (s : State) (b : Bool) (k : Nat) (v : Word) : (enterS s b k v).mem = s.mem := rfl
@[simp] theorem enterS_platform (s : State) (b : Bool) (k : Nat) (v : Word) : (enterS s b k v).platform = s.platform := rfl
@[simp] theorem enterS_draws (s : State) (b : Bool) (k : Nat) (v : Word) : (enterS s b k v).draws = s.draws := rfl

/-! ## A write of `mstatus` -/

@[simp] theorem writeMstatus_par (s : State) (v : Word) : (writeMstatus s v).par = s.par := rfl
@[simp] theorem writeMstatus_priv (s : State) (v : Word) : (writeMstatus s v).priv = s.priv := rfl
@[simp] theorem writeMstatus_pc (s : State) (v : Word) : (writeMstatus s v).pc = s.pc := rfl
@[simp] theorem writeMstatus_x (s : State) (v : Word) : (writeMstatus s v).x = s.x := rfl
@[simp] theorem writeMstatus_mstatus (s : State) (v : Word) : (writeMstatus s v).mstatus = statusWrite s.par.bigEndian s.mstatus v := rfl
@[simp] theorem writeMstatus_medeleg (s : State) (v : Word) : (writeMstatus s v).medeleg = s.medeleg := rfl
@[simp] theorem writeMstatus_mideleg (s : State) (v : Word) : (writeMstatus s v).mideleg = s.mideleg := rfl
@[simp] theorem writeMstatus_mie (s : State) (v : Word) : (writeMstatus s v).mie = s.mie := rfl
@[simp] theorem writeMstatus_mip (s : State) (v : Word) : (writeMstatus s v).mip = s.mip := rfl
@[simp] theorem writeMstatus_extSeip (s : State) (v : Word) : (writeMstatus s v).extSeip = s.extSeip := rfl
@[simp] theorem writeMstatus_mtvec (s : State) (v : Word) : (writeMstatus s v).mtvec = s.mtvec := rfl
@[simp] theorem writeMstatus_mtvecWritten (s : State) (v : Word) : (writeMstatus s v).mtvecWritten = s.mtvecWritten := rfl
@[simp] theorem writeMstatus_mcounteren (s : State) (v : Word) : (writeMstatus s v).mcounteren = s.mcounteren := rfl
@[simp] theorem writeMstatus_mcountinhibit (s : State) (v : Word) : (writeMstatus s v).mcountinhibit = s.mcountinhibit := rfl
@[simp] theorem writeMstatus_mhpmevent (s : State) (v : Word) : (writeMstatus s v).mhpmevent = s.mhpmevent := rfl
@[simp] theorem writeMstatus_mscratch (s : State) (v : Word) : (writeMstatus s v).mscratch = s.mscratch := rfl
@[simp] theorem writeMstatus_mepc (s : State) (v : Word) : (writeMstatus s v).mepc = s.mepc := rfl
@[simp] theorem writeMstatus_mcause (s : State) (v : Word) : (writeMstatus s v).mcause = s.mcause := rfl
@[simp] theorem writeMstatus_mtval (s : State) (v : Word) : (writeMstatus s v).mtval = s.mtval := rfl
@[simp] theorem writeMstatus_mtinst (s : State) (v : Word) : (writeMstatus s v).mtinst = s.mtinst := rfl
@[simp] theorem writeMstatus_mtval2 (s : State) (v : Word) : (writeMstatus s v).mtval2 = s.mtval2 := rfl
@[simp] theorem writeMstatus_stvec (s : State) (v : Word) : (writeMstatus s v).stvec = s.stvec := rfl
@[simp] theorem writeMstatus_stvecWritten (s : State) (v : Word) : (writeMstatus s v).stvecWritten = s.stvecWritten := rfl
@[simp] theorem writeMstatus_scounteren (s : State) (v : Word) : (writeMstatus s v).scounteren = s.scounteren := rfl
@[simp] theorem writeMstatus_sscratch (s : State) (v : Word) : (writeMstatus s v).sscratch = s.sscratch := rfl
@[simp] theorem writeMstatus_sepc (s : State) (v : Word) : (writeMstatus s v).sepc = s.sepc := rfl
@[simp] theorem writeMstatus_scause (s : State) (v : Word) : (writeMstatus s v).scause = s.scause := rfl
@[simp] theorem writeMstatus_stval (s : State) (v : Word) : (writeMstatus s v).stval = s.stval := rfl
@[simp] theorem writeMstatus_fcsr (s : State) (v : Word) : (writeMstatus s v).fcsr = s.fcsr := rfl
@[simp] theorem writeMstatus_tselect (s : State) (v : Word) : (writeMstatus s v).tselect = s.tselect := rfl
@[simp] theorem writeMstatus_tdata1 (s : State) (v : Word) : (writeMstatus s v).tdata1 = s.tdata1 := rfl
@[simp] theorem writeMstatus_tdata2 (s : State) (v : Word) : (writeMstatus s v).tdata2 = s.tdata2 := rfl
@[simp] theorem writeMstatus_tdata3 (s : State) (v : Word) : (writeMstatus s v).tdata3 = s.tdata3 := rfl
@[simp] theorem writeMstatus_tinfo (s : State) (v : Word) : (writeMstatus s v).tinfo = s.tinfo := rfl
@[simp] theorem writeMstatus_tcontrol (s : State) (v : Word) : (writeMstatus s v).tcontrol = s.tcontrol := rfl
@[simp] theorem writeMstatus_mcontext (s : State) (v : Word) : (writeMstatus s v).mcontext = s.mcontext := rfl
@[simp] theorem writeMstatus_mcycle (s : State) (v : Word) : (writeMstatus s v).mcycle = s.mcycle := rfl
@[simp] theorem writeMstatus_minstret (s : State) (v : Word) : (writeMstatus s v).minstret = s.minstret := rfl
@[simp] theorem writeMstatus_mhpmcounter (s : State) (v : Word) : (writeMstatus s v).mhpmcounter = s.mhpmcounter := rfl
@[simp] theorem writeMstatus_time (s : State) (v : Word) : (writeMstatus s v).time = s.time := rfl
@[simp] theorem writeMstatus_waiting (s : State) (v : Word) : (writeMstatus s v).waiting = s.waiting := rfl
@[simp] theorem writeMstatus_waitSteps (s : State) (v : Word) : (writeMstatus s v).waitSteps = s.waitSteps := rfl
@[simp] theorem writeMstatus_mem (s : State) (v : Word) : (writeMstatus s v).mem = s.mem := rfl
@[simp] theorem writeMstatus_platform (s : State) (v : Word) : (writeMstatus s v).platform = s.platform := rfl
@[simp] theorem writeMstatus_draws (s : State) (v : Word) : (writeMstatus s v).draws = s.draws := rfl

/-! ## A write of `fcsr` -/

@[simp] theorem writeFcsr_par (s : State) (v : BitVec 8) : (writeFcsr s v).par = s.par := rfl
@[simp] theorem writeFcsr_priv (s : State) (v : BitVec 8) : (writeFcsr s v).priv = s.priv := rfl
@[simp] theorem writeFcsr_pc (s : State) (v : BitVec 8) : (writeFcsr s v).pc = s.pc := rfl
@[simp] theorem writeFcsr_x (s : State) (v : BitVec 8) : (writeFcsr s v).x = s.x := rfl
@[simp] theorem writeFcsr_mstatus (s : State) (v : BitVec 8) : (writeFcsr s v).mstatus = { s.mstatus with fs := 3#2 } := rfl
@[simp] theorem writeFcsr_medeleg (s : State) (v : BitVec 8) : (writeFcsr s v).medeleg = s.medeleg := rfl
@[simp] theorem writeFcsr_mideleg (s : State) (v : BitVec 8) : (writeFcsr s v).mideleg = s.mideleg := rfl
@[simp] theorem writeFcsr_mie (s : State) (v : BitVec 8) : (writeFcsr s v).mie = s.mie := rfl
@[simp] theorem writeFcsr_mip (s : State) (v : BitVec 8) : (writeFcsr s v).mip = s.mip := rfl
@[simp] theorem writeFcsr_extSeip (s : State) (v : BitVec 8) : (writeFcsr s v).extSeip = s.extSeip := rfl
@[simp] theorem writeFcsr_mtvec (s : State) (v : BitVec 8) : (writeFcsr s v).mtvec = s.mtvec := rfl
@[simp] theorem writeFcsr_mtvecWritten (s : State) (v : BitVec 8) : (writeFcsr s v).mtvecWritten = s.mtvecWritten := rfl
@[simp] theorem writeFcsr_mcounteren (s : State) (v : BitVec 8) : (writeFcsr s v).mcounteren = s.mcounteren := rfl
@[simp] theorem writeFcsr_mcountinhibit (s : State) (v : BitVec 8) : (writeFcsr s v).mcountinhibit = s.mcountinhibit := rfl
@[simp] theorem writeFcsr_mhpmevent (s : State) (v : BitVec 8) : (writeFcsr s v).mhpmevent = s.mhpmevent := rfl
@[simp] theorem writeFcsr_mscratch (s : State) (v : BitVec 8) : (writeFcsr s v).mscratch = s.mscratch := rfl
@[simp] theorem writeFcsr_mepc (s : State) (v : BitVec 8) : (writeFcsr s v).mepc = s.mepc := rfl
@[simp] theorem writeFcsr_mcause (s : State) (v : BitVec 8) : (writeFcsr s v).mcause = s.mcause := rfl
@[simp] theorem writeFcsr_mtval (s : State) (v : BitVec 8) : (writeFcsr s v).mtval = s.mtval := rfl
@[simp] theorem writeFcsr_mtinst (s : State) (v : BitVec 8) : (writeFcsr s v).mtinst = s.mtinst := rfl
@[simp] theorem writeFcsr_mtval2 (s : State) (v : BitVec 8) : (writeFcsr s v).mtval2 = s.mtval2 := rfl
@[simp] theorem writeFcsr_stvec (s : State) (v : BitVec 8) : (writeFcsr s v).stvec = s.stvec := rfl
@[simp] theorem writeFcsr_stvecWritten (s : State) (v : BitVec 8) : (writeFcsr s v).stvecWritten = s.stvecWritten := rfl
@[simp] theorem writeFcsr_scounteren (s : State) (v : BitVec 8) : (writeFcsr s v).scounteren = s.scounteren := rfl
@[simp] theorem writeFcsr_sscratch (s : State) (v : BitVec 8) : (writeFcsr s v).sscratch = s.sscratch := rfl
@[simp] theorem writeFcsr_sepc (s : State) (v : BitVec 8) : (writeFcsr s v).sepc = s.sepc := rfl
@[simp] theorem writeFcsr_scause (s : State) (v : BitVec 8) : (writeFcsr s v).scause = s.scause := rfl
@[simp] theorem writeFcsr_stval (s : State) (v : BitVec 8) : (writeFcsr s v).stval = s.stval := rfl
@[simp] theorem writeFcsr_fcsr (s : State) (v : BitVec 8) : (writeFcsr s v).fcsr = v := rfl
@[simp] theorem writeFcsr_tselect (s : State) (v : BitVec 8) : (writeFcsr s v).tselect = s.tselect := rfl
@[simp] theorem writeFcsr_tdata1 (s : State) (v : BitVec 8) : (writeFcsr s v).tdata1 = s.tdata1 := rfl
@[simp] theorem writeFcsr_tdata2 (s : State) (v : BitVec 8) : (writeFcsr s v).tdata2 = s.tdata2 := rfl
@[simp] theorem writeFcsr_tdata3 (s : State) (v : BitVec 8) : (writeFcsr s v).tdata3 = s.tdata3 := rfl
@[simp] theorem writeFcsr_tinfo (s : State) (v : BitVec 8) : (writeFcsr s v).tinfo = s.tinfo := rfl
@[simp] theorem writeFcsr_tcontrol (s : State) (v : BitVec 8) : (writeFcsr s v).tcontrol = s.tcontrol := rfl
@[simp] theorem writeFcsr_mcontext (s : State) (v : BitVec 8) : (writeFcsr s v).mcontext = s.mcontext := rfl
@[simp] theorem writeFcsr_mcycle (s : State) (v : BitVec 8) : (writeFcsr s v).mcycle = s.mcycle := rfl
@[simp] theorem writeFcsr_minstret (s : State) (v : BitVec 8) : (writeFcsr s v).minstret = s.minstret := rfl
@[simp] theorem writeFcsr_mhpmcounter (s : State) (v : BitVec 8) : (writeFcsr s v).mhpmcounter = s.mhpmcounter := rfl
@[simp] theorem writeFcsr_time (s : State) (v : BitVec 8) : (writeFcsr s v).time = s.time := rfl
@[simp] theorem writeFcsr_waiting (s : State) (v : BitVec 8) : (writeFcsr s v).waiting = s.waiting := rfl
@[simp] theorem writeFcsr_waitSteps (s : State) (v : BitVec 8) : (writeFcsr s v).waitSteps = s.waitSteps := rfl
@[simp] theorem writeFcsr_mem (s : State) (v : BitVec 8) : (writeFcsr s v).mem = s.mem := rfl
@[simp] theorem writeFcsr_platform (s : State) (v : BitVec 8) : (writeFcsr s v).platform = s.platform := rfl
@[simp] theorem writeFcsr_draws (s : State) (v : BitVec 8) : (writeFcsr s v).draws = s.draws := rfl

/-! ## The platform at a boundary -/

@[simp] theorem platformActs_par (s : State) : (platformActs s).par = s.par := by
  unfold platformActs; split <;> simp [*]
@[simp] theorem platformActs_priv (s : State) : (platformActs s).priv = s.priv := by
  unfold platformActs; split <;> simp [*]
@[simp] theorem platformActs_pc (s : State) : (platformActs s).pc = s.pc := by
  unfold platformActs; split <;> simp [*]
@[simp] theorem platformActs_x (s : State) : (platformActs s).x = s.x := by
  unfold platformActs; split <;> simp [*]
@[simp] theorem platformActs_mstatus (s : State) : (platformActs s).mstatus = s.mstatus := by
  unfold platformActs; split <;> simp [*]
@[simp] theorem platformActs_medeleg (s : State) : (platformActs s).medeleg = s.medeleg := by
  unfold platformActs; split <;> simp [*]
@[simp] theorem platformActs_mideleg (s : State) : (platformActs s).mideleg = s.mideleg := by
  unfold platformActs; split <;> simp [*]
@[simp] theorem platformActs_mie (s : State) : (platformActs s).mie = s.mie := by
  unfold platformActs; split <;> simp [*]
@[simp] theorem platformActs_mtvec (s : State) : (platformActs s).mtvec = s.mtvec := by
  unfold platformActs; split <;> simp [*]
@[simp] theorem platformActs_mtvecWritten (s : State) : (platformActs s).mtvecWritten = s.mtvecWritten := by
  unfold platformActs; split <;> simp [*]
@[simp] theorem platformActs_mcounteren (s : State) : (platformActs s).mcounteren = s.mcounteren := by
  unfold platformActs; split <;> simp [*]
@[simp] theorem platformActs_mcountinhibit (s : State) : (platformActs s).mcountinhibit = s.mcountinhibit := by
  unfold platformActs; split <;> simp [*]
@[simp] theorem platformActs_mhpmevent (s : State) : (platformActs s).mhpmevent = s.mhpmevent := by
  unfold platformActs; split <;> simp [*]
@[simp] theorem platformActs_mscratch (s : State) : (platformActs s).mscratch = s.mscratch := by
  unfold platformActs; split <;> simp [*]
@[simp] theorem platformActs_mepc (s : State) : (platformActs s).mepc = s.mepc := by
  unfold platformActs; split <;> simp [*]
@[simp] theorem platformActs_mcause (s : State) : (platformActs s).mcause = s.mcause := by
  unfold platformActs; split <;> simp [*]
@[simp] theorem platformActs_mtval (s : State) : (platformActs s).mtval = s.mtval := by
  unfold platformActs; split <;> simp [*]
@[simp] theorem platformActs_mtinst (s : State) : (platformActs s).mtinst = s.mtinst := by
  unfold platformActs; split <;> simp [*]
@[simp] theorem platformActs_mtval2 (s : State) : (platformActs s).mtval2 = s.mtval2 := by
  unfold platformActs; split <;> simp [*]
@[simp] theorem platformActs_stvec (s : State) : (platformActs s).stvec = s.stvec := by
  unfold platformActs; split <;> simp [*]
@[simp] theorem platformActs_stvecWritten (s : State) : (platformActs s).stvecWritten = s.stvecWritten := by
  unfold platformActs; split <;> simp [*]
@[simp] theorem platformActs_scounteren (s : State) : (platformActs s).scounteren = s.scounteren := by
  unfold platformActs; split <;> simp [*]
@[simp] theorem platformActs_sscratch (s : State) : (platformActs s).sscratch = s.sscratch := by
  unfold platformActs; split <;> simp [*]
@[simp] theorem platformActs_sepc (s : State) : (platformActs s).sepc = s.sepc := by
  unfold platformActs; split <;> simp [*]
@[simp] theorem platformActs_scause (s : State) : (platformActs s).scause = s.scause := by
  unfold platformActs; split <;> simp [*]
@[simp] theorem platformActs_stval (s : State) : (platformActs s).stval = s.stval := by
  unfold platformActs; split <;> simp [*]
@[simp] theorem platformActs_fcsr (s : State) : (platformActs s).fcsr = s.fcsr := by
  unfold platformActs; split <;> simp [*]
@[simp] theorem platformActs_tselect (s : State) : (platformActs s).tselect = s.tselect := by
  unfold platformActs; split <;> simp [*]
@[simp] theorem platformActs_tdata1 (s : State) : (platformActs s).tdata1 = s.tdata1 := by
  unfold platformActs; split <;> simp [*]
@[simp] theorem platformActs_tdata2 (s : State) : (platformActs s).tdata2 = s.tdata2 := by
  unfold platformActs; split <;> simp [*]
@[simp] theorem platformActs_tdata3 (s : State) : (platformActs s).tdata3 = s.tdata3 := by
  unfold platformActs; split <;> simp [*]
@[simp] theorem platformActs_tinfo (s : State) : (platformActs s).tinfo = s.tinfo := by
  unfold platformActs; split <;> simp [*]
@[simp] theorem platformActs_tcontrol (s : State) : (platformActs s).tcontrol = s.tcontrol := by
  unfold platformActs; split <;> simp [*]
@[simp] theorem platformActs_mcontext (s : State) : (platformActs s).mcontext = s.mcontext := by
  unfold platformActs; split <;> simp [*]
@[simp] theorem platformActs_mcycle (s : State) : (platformActs s).mcycle = s.mcycle := by
  unfold platformActs; split <;> simp [*]
@[simp] theorem platformActs_minstret (s : State) : (platformActs s).minstret = s.minstret := by
  unfold platformActs; split <;> simp [*]
@[simp] theorem platformActs_mhpmcounter (s : State) : (platformActs s).mhpmcounter = s.mhpmcounter := by
  unfold platformActs; split <;> simp [*]
@[simp] theorem platformActs_time (s : State) : (platformActs s).time = s.time + BitVec.ofNat 64 (Config.timeAdvance s.draws) := by
  unfold platformActs; split <;> simp [*]
@[simp] theorem platformActs_waiting (s : State) : (platformActs s).waiting = s.waiting := by
  unfold platformActs; split <;> simp [*]
@[simp] theorem platformActs_waitSteps (s : State) : (platformActs s).waitSteps = s.waitSteps := by
  unfold platformActs; split <;> simp [*]
@[simp] theorem platformActs_mem (s : State) : (platformActs s).mem = s.mem := by
  unfold platformActs; split <;> simp [*]
@[simp] theorem platformActs_platform (s : State) : (platformActs s).platform = s.platform.tail := by
  unfold platformActs; split <;> simp [*]
@[simp] theorem platformActs_draws (s : State) : (platformActs s).draws = s.draws := by
  unfold platformActs; split <;> simp [*]

/-! ## Placing a word -/

@[simp] theorem placeWord_par (s : State) (w : BitVec 32) : (placeWord s w).par = s.par := rfl
@[simp] theorem placeWord_priv (s : State) (w : BitVec 32) : (placeWord s w).priv = s.priv := rfl
@[simp] theorem placeWord_pc (s : State) (w : BitVec 32) : (placeWord s w).pc = s.pc := rfl
@[simp] theorem placeWord_x (s : State) (w : BitVec 32) : (placeWord s w).x = s.x := rfl
@[simp] theorem placeWord_mstatus (s : State) (w : BitVec 32) : (placeWord s w).mstatus = s.mstatus := rfl
@[simp] theorem placeWord_medeleg (s : State) (w : BitVec 32) : (placeWord s w).medeleg = s.medeleg := rfl
@[simp] theorem placeWord_mideleg (s : State) (w : BitVec 32) : (placeWord s w).mideleg = s.mideleg := rfl
@[simp] theorem placeWord_mie (s : State) (w : BitVec 32) : (placeWord s w).mie = s.mie := rfl
@[simp] theorem placeWord_mip (s : State) (w : BitVec 32) : (placeWord s w).mip = s.mip := rfl
@[simp] theorem placeWord_extSeip (s : State) (w : BitVec 32) : (placeWord s w).extSeip = s.extSeip := rfl
@[simp] theorem placeWord_mtvec (s : State) (w : BitVec 32) : (placeWord s w).mtvec = s.mtvec := rfl
@[simp] theorem placeWord_mtvecWritten (s : State) (w : BitVec 32) : (placeWord s w).mtvecWritten = s.mtvecWritten := rfl
@[simp] theorem placeWord_mcounteren (s : State) (w : BitVec 32) : (placeWord s w).mcounteren = s.mcounteren := rfl
@[simp] theorem placeWord_mcountinhibit (s : State) (w : BitVec 32) : (placeWord s w).mcountinhibit = s.mcountinhibit := rfl
@[simp] theorem placeWord_mhpmevent (s : State) (w : BitVec 32) : (placeWord s w).mhpmevent = s.mhpmevent := rfl
@[simp] theorem placeWord_mscratch (s : State) (w : BitVec 32) : (placeWord s w).mscratch = s.mscratch := rfl
@[simp] theorem placeWord_mepc (s : State) (w : BitVec 32) : (placeWord s w).mepc = s.mepc := rfl
@[simp] theorem placeWord_mcause (s : State) (w : BitVec 32) : (placeWord s w).mcause = s.mcause := rfl
@[simp] theorem placeWord_mtval (s : State) (w : BitVec 32) : (placeWord s w).mtval = s.mtval := rfl
@[simp] theorem placeWord_mtinst (s : State) (w : BitVec 32) : (placeWord s w).mtinst = s.mtinst := rfl
@[simp] theorem placeWord_mtval2 (s : State) (w : BitVec 32) : (placeWord s w).mtval2 = s.mtval2 := rfl
@[simp] theorem placeWord_stvec (s : State) (w : BitVec 32) : (placeWord s w).stvec = s.stvec := rfl
@[simp] theorem placeWord_stvecWritten (s : State) (w : BitVec 32) : (placeWord s w).stvecWritten = s.stvecWritten := rfl
@[simp] theorem placeWord_scounteren (s : State) (w : BitVec 32) : (placeWord s w).scounteren = s.scounteren := rfl
@[simp] theorem placeWord_sscratch (s : State) (w : BitVec 32) : (placeWord s w).sscratch = s.sscratch := rfl
@[simp] theorem placeWord_sepc (s : State) (w : BitVec 32) : (placeWord s w).sepc = s.sepc := rfl
@[simp] theorem placeWord_scause (s : State) (w : BitVec 32) : (placeWord s w).scause = s.scause := rfl
@[simp] theorem placeWord_stval (s : State) (w : BitVec 32) : (placeWord s w).stval = s.stval := rfl
@[simp] theorem placeWord_fcsr (s : State) (w : BitVec 32) : (placeWord s w).fcsr = s.fcsr := rfl
@[simp] theorem placeWord_tselect (s : State) (w : BitVec 32) : (placeWord s w).tselect = s.tselect := rfl
@[simp] theorem placeWord_tdata1 (s : State) (w : BitVec 32) : (placeWord s w).tdata1 = s.tdata1 := rfl
@[simp] theorem placeWord_tdata2 (s : State) (w : BitVec 32) : (placeWord s w).tdata2 = s.tdata2 := rfl
@[simp] theorem placeWord_tdata3 (s : State) (w : BitVec 32) : (placeWord s w).tdata3 = s.tdata3 := rfl
@[simp] theorem placeWord_tinfo (s : State) (w : BitVec 32) : (placeWord s w).tinfo = s.tinfo := rfl
@[simp] theorem placeWord_tcontrol (s : State) (w : BitVec 32) : (placeWord s w).tcontrol = s.tcontrol := rfl
@[simp] theorem placeWord_mcontext (s : State) (w : BitVec 32) : (placeWord s w).mcontext = s.mcontext := rfl
@[simp] theorem placeWord_mcycle (s : State) (w : BitVec 32) : (placeWord s w).mcycle = s.mcycle := rfl
@[simp] theorem placeWord_minstret (s : State) (w : BitVec 32) : (placeWord s w).minstret = s.minstret := rfl
@[simp] theorem placeWord_mhpmcounter (s : State) (w : BitVec 32) : (placeWord s w).mhpmcounter = s.mhpmcounter := rfl
@[simp] theorem placeWord_time (s : State) (w : BitVec 32) : (placeWord s w).time = s.time := rfl
@[simp] theorem placeWord_waiting (s : State) (w : BitVec 32) : (placeWord s w).waiting = false := rfl
@[simp] theorem placeWord_waitSteps (s : State) (w : BitVec 32) : (placeWord s w).waitSteps = s.waitSteps := rfl
@[simp] theorem placeWord_mem (s : State) (w : BitVec 32) : (placeWord s w).mem = s.mem.writeBytes s.pc (wordBytes w) := rfl
@[simp] theorem placeWord_platform (s : State) (w : BitVec 32) : (placeWord s w).platform = s.platform := rfl
@[simp] theorem placeWord_draws (s : State) (w : BitVec 32) : (placeWord s w).draws = s.draws := rfl

end Sys2Proof.Machine
end

