-- ==== Sys2Proof/Laws/Csr.lean ====
section
/-! SUPPORT. The laws of general registers and of control and status registers: the listing, the access check, and
what a write touches. -/

namespace Sys2Proof.Machine

/-! ## General registers -/

theorem getX_zero (s : State) : s.getX 0#5 = 0#64 := rfl

theorem getX_of_x_eq {s t : State} (h : t.x = s.x) (r : RegNum) : t.getX r = s.getX r := by
  simp only [State.getX, h]

theorem getX_setX_same (s : State) (r : RegNum) (v : Word) :
    (s.setX r v).getX r = if r = 0#5 then 0#64 else v := by
  unfold State.getX State.setX
  split <;> simp

theorem getX_setX_other {r r' : RegNum} (s : State) (v : Word) (h : r' ≠ r) : (s.setX r v).getX r' = s.getX r' := by
  unfold State.getX State.setX
  split
  · rfl
  · split
    · rfl
    · rename_i h0 h1
      have hn : r.toNat ≠ r'.toNat := fun e => h (BitVec.eq_of_toNat_eq e.symm)
      have h0' : r'.toNat ≠ 0 := fun e => h0 (BitVec.eq_of_toNat_eq e)
      have h1' : r.toNat ≠ 0 := fun e => h1 (BitVec.eq_of_toNat_eq e)
      exact Vector.getElem_set_ne (by have := r.isLt; omega) (by have := r'.isLt; omega) (by omega)

/-- Every general register but the one written reads as before. -/
theorem setX_sameRegsBut (s : State) (r : RegNum) (v : Word) : SameRegsBut r s (s.setX r v) :=
  fun _ h => getX_setX_other s v h

/-- A write of a general register changes `x` only. -/
theorem setX_with_x (s : State) (r : RegNum) (v : Word) (x : Vector Word 31) :
    { s.setX r v with x := x } = { s with x := x } := by
  unfold State.setX
  split <;> rfl

/-! ## The listing -/

theorem Csr.listing_complete (c : Csr) : c ∈ Csr.listing := by
  cases c <;> simp [Csr.listing, Csr.singles, List.mem_finRange]

theorem Csr.ofAddr_addr (c : Csr) : Csr.ofAddr c.addr = some c := by
  have h : ∀ c ∈ Csr.listing, Csr.ofAddr c.addr = some c := by decide +kernel
  exact h c (Csr.listing_complete c)

theorem Csr.addr_of_ofAddr {a : CsrAddr} {c : Csr} (h : Csr.ofAddr a = some c) : c.addr = a := by
  simpa using List.find?_some h

theorem Csr.ofAddr_eq_some {a : CsrAddr} {c : Csr} : Csr.ofAddr a = some c ↔ c.addr = a :=
  ⟨Csr.addr_of_ofAddr, fun h => h ▸ Csr.ofAddr_addr c⟩

/-! ## The access check -/

/-- What a passed check says (R140). -/
theorem csrCheck_some {s : State} {a : CsrAddr} {w : Bool} {c : Csr} (h : csrCheck s a w = some c) :
    Csr.ofAddr a = some c ∧ privilegeAllows s.priv a = true ∧ (w = true → readOnlyAddr a = false) ∧
    (userCounterAddr a = true → counterEnabled s a = true) ∧ (floatAddr a = true → s.mstatus.fs ≠ 0#2) := by
  unfold csrCheck at h
  split at h
  · rename_i hc
    simp only [Bool.and_eq_true, Bool.not_eq_true', Bool.or_eq_true, Bool.and_eq_false_iff, beq_eq_false_iff_ne] at hc
    obtain ⟨⟨⟨h1, h2⟩, h3⟩, h4⟩ := hc
    refine ⟨h, h1, ?_, ?_, ?_⟩
    · intro hw; rcases h2 with h2 | h2 <;> simp_all
    · intro hu; rcases h3 with h3 | h3 <;> simp_all
    · intro hf; rcases h4 with h4 | h4 <;> simp_all
  · cases h

/-- A write that passes the check is to no read-only register. -/
theorem csrCheck_write_addr {s : State} {a : CsrAddr} {c : Csr} (h : csrCheck s a true = some c) :
    readOnlyAddr c.addr = false := by
  have h' := csrCheck_some h
  rw [Csr.addr_of_ofAddr h'.1]
  exact h'.2.2.1 rfl

/-- In M-mode every listed register but the floating-point ones passes the check, for a write if it is not read-only. -/
theorem csrCheck_machine {s : State} (h : s.priv = .M) {c : Csr} (hf : floatAddr c.addr = false) {w : Bool}
    (hw : w = true → readOnlyAddr c.addr = false) : csrCheck s c.addr w = some c := by
  have h1 : privilegeAllows s.priv c.addr = true := by
    rw [h]
    simp only [privilegeAllows, Priv.code, BitVec.ule]
    have := (c.addr.extractLsb' 8 2).isLt
    simp
    omega
  have h2 : (w && readOnlyAddr c.addr) = false := by cases w <;> simp_all
  have h3 : counterEnabled s c.addr = true := by simp [counterEnabled, h]
  simp [csrCheck, h1, h2, h3, hf, Csr.ofAddr_addr]

/-- Above U-mode a supervisor register passes the check, for a write if it is not read-only. -/
theorem csrCheck_supervisor {s : State} (h : s.priv ≠ .U) {c : Csr} (hf : floatAddr c.addr = false)
    (hp : c.addr.extractLsb' 8 2 = 1#2) (hu : userCounterAddr c.addr = false) {w : Bool}
    (hw : w = true → readOnlyAddr c.addr = false) : csrCheck s c.addr w = some c := by
  have h1 : privilegeAllows s.priv c.addr = true := by
    simp only [privilegeAllows, hp, BitVec.ule]
    cases hq : s.priv <;> simp_all [Priv.code]
  have h2 : (w && readOnlyAddr c.addr) = false := by cases w <;> simp_all
  simp [csrCheck, h1, h2, hu, hf, Csr.ofAddr_addr]

/-! ## What a write touches -/

theorem mergeBits_getLsbD (m old v : Word) (k : Nat) (hk : k < 64) :
    (mergeBits m old v).getLsbD k = if m.getLsbD k then v.getLsbD k else old.getLsbD k := by
  simp only [mergeBits, BitVec.getLsbD_or, BitVec.getLsbD_and, BitVec.getLsbD_not]
  cases m.getLsbD k <;> simp [hk]

@[simp] theorem mergeBits_self (m v : Word) : mergeBits m v v = v := by
  ext k hk
  simp only [mergeBits, BitVec.getElem_or, BitVec.getElem_and, BitVec.getElem_not]
  cases v[k] <;> cases m[k] <;> rfl

@[simp] theorem ofFn_getElem {n : Nat} (v : Vector Word n) : (Vector.ofFn fun k => v[k]) = v := by
  ext k hk
  simp

/-- A state restored from itself is itself. -/
@[simp] theorem withCountersOf_self (s : State) : withCountersOf s s = s := by
  simp only [withCountersOf, mergeBits_self, ofFn_getElem]

theorem mergeBits_set (m : Word) (ev : Vector Word 29) (n : Fin 29) (v : Word) :
    (Vector.ofFn fun k => mergeBits m (ev.set n v)[k] ev[k]).set n ev[n] = ev := by
  ext k hk
  simp only [Vector.getElem_set, Vector.getElem_ofFn, Fin.getElem_fin]
  split
  · simp_all
  · simp_all

/-- A CSR write changes the storage of its register only, but for the counters. -/
theorem withCsrOf_csrWrite (s : State) (c : Csr) (v : Word) :
    withCsrOf c s (withCountersOf s (csrWrite s c v)) = s := by
  cases c
  case mhpmevent n =>
    simp only [csrWrite]
    split
    · simp only [withCsrOf, withCountersOf, mergeBits_self]
      simp only [mergeBits_set]
    · simp only [withCountersOf_self, withCsrOf]
      simp
  all_goals
    simp only [csrWrite, writeFcsr, writeMstatus]
    try split
    all_goals simp only [withCsrOf, withCountersOf, mergeBits_self, ofFn_getElem]

/-- A CSR write leaves these fields alone, whatever the register. -/
theorem csrWrite_frame (s : State) (c : Csr) (v : Word) :
    (csrWrite s c v).par = s.par ∧ (csrWrite s c v).priv = s.priv ∧ (csrWrite s c v).pc = s.pc ∧
    (csrWrite s c v).x = s.x ∧ (csrWrite s c v).mem = s.mem ∧ (csrWrite s c v).time = s.time ∧
    (csrWrite s c v).waiting = s.waiting ∧ (csrWrite s c v).waitSteps = s.waitSteps ∧
    (csrWrite s c v).platform = s.platform ∧ (csrWrite s c v).extSeip = s.extSeip ∧
    (csrWrite s c v).draws = s.draws := by
  cases c <;> simp only [csrWrite, writeFcsr, writeMstatus] <;> (try split) <;> simp

end Sys2Proof.Machine
end

