-- ==== Sys2Proof/Laws/Decode.lean ====
section
/-! SUPPORT. The fields of an assembled word, and its bytes. -/

namespace Sys2Proof

/-- Each field of an assembled word is what it was assembled from (R121). -/
theorem systemWord_fields (csr : CsrAddr) (rs1 : BitVec 5) (f : BitVec 3) (rd : RegNum) :
    opcodeField (systemWord csr rs1 f rd) = 0x73#7 ∧ rdField (systemWord csr rs1 f rd) = rd ∧
    funct3Field (systemWord csr rs1 f rd) = f ∧ rs1Field (systemWord csr rs1 f rd) = rs1 ∧
    csrField (systemWord csr rs1 f rd) = csr := by
  refine ⟨?_, ?_, ?_, ?_, ?_⟩ <;>
  · ext k hk
    simp only [opcodeField, rdField, funct3Field, rs1Field, csrField, systemWord, BitVec.getElem_extractLsb',
      BitVec.getLsbD_append]
    interval_cases k <;> simp [BitVec.getLsbD_eq_getElem]

/-- The four bytes of a word put together again. -/
theorem word_of_bytes (w : BitVec 32) :
    w.extractLsb' 24 8 ++ w.extractLsb' 16 8 ++ w.extractLsb' 8 8 ++ w.extractLsb' 0 8 = w := by
  ext k hk
  simp only [BitVec.getElem_append, BitVec.getElem_extractLsb']
  interval_cases k <;> simp [BitVec.getLsbD_eq_getElem]

/-- The bytes of four bytes put together. -/
theorem wordBytes_append (b0 b1 b2 b3 : Byte) : wordBytes (b3 ++ b2 ++ b1 ++ b0) = [b0, b1, b2, b3] := by
  simp only [wordBytes, List.cons.injEq, and_true]
  refine ⟨?_, ?_, ?_, ?_⟩ <;>
  · ext k hk
    simp only [BitVec.getElem_extractLsb', BitVec.getLsbD_append]
    interval_cases k <;> simp [BitVec.getLsbD_eq_getElem]

end Sys2Proof
end

