-- ==== Sys2Proof/Laws/Exec.lean ====
section
/-! SUPPORT. What the shared operations and the instructions can answer: one inversion lemma each. -/

namespace Sys2Proof.Machine

/-! ## Counter stepping -/

theorem flagAt_getLsbD (b : Bool) (k j : Nat) (hj : j < 64) : (flagAt b k).getLsbD j = (b && decide (j = k)) := by
  unfold flagAt
  cases b <;> simp [hj]
  by_cases h : j < k
  · simp [h]; omega
  · simp [h]; omega

theorem stepCounters_mhpmevent (pre : State) (w : Option Csr) (b : Bool) (post : State) (n : Fin 29) :
    (stepCounters pre w b post).mhpmevent[n] = post.mhpmevent[n] ||| flagAt (hpmWraps pre w post n) 63 := by
  unfold stepCounters
  exact Vector.getElem_ofFn n.isLt

theorem stepCounters_mhpmcounter (pre : State) (w : Option Csr) (b : Bool) (post : State) (n : Fin 29) :
    (stepCounters pre w b post).mhpmcounter[n] = post.mhpmcounter[n] + BitVec.ofNat 64 (hpmStep pre w n) := by
  unfold stepCounters
  exact Vector.getElem_ofFn n.isLt

/-- Restoring a bit forgets that it was set. -/
theorem mergeBits_flag (q : Bool) (a c : Word) (k : Nat) :
    mergeBits (flagAt true k) (a ||| flagAt q k) c = mergeBits (flagAt true k) a c := by
  apply BitVec.eq_of_getLsbD_eq
  intro j hj
  simp only [mergeBits, BitVec.getLsbD_or, BitVec.getLsbD_and, BitVec.getLsbD_not, flagAt_getLsbD _ _ _ hj]
  cases q <;> by_cases hk : j = k <;> simp [hk]

/-- Counter stepping touches only what `withCountersOf` restores. -/
@[simp] theorem withCountersOf_stepCounters (s pre : State) (w : Option Csr) (b : Bool) (post : State) :
    withCountersOf s (stepCounters pre w b post) = withCountersOf s post := by
  have he : (fun n : Fin 29 => mergeBits (flagAt true 63) (stepCounters pre w b post).mhpmevent[n] s.mhpmevent[n])
      = fun n : Fin 29 => mergeBits (flagAt true 63) post.mhpmevent[n] s.mhpmevent[n] := by
    funext n
    rw [stepCounters_mhpmevent, mergeBits_flag]
  have hm : mergeBits (flagAt true 13) (stepCounters pre w b post).mip s.mip = mergeBits (flagAt true 13) post.mip s.mip := by
    rw [stepCounters_mip, mergeBits_flag]
  unfold withCountersOf
  rw [he, hm]
  rfl

theorem hpmStep_eq (pre : State) (w : Option Csr) (n : Fin 29) : hpmStep pre w n = eventCount pre w n := by
  have hi : (inhibitVal pre).getLsbD (n.val + 3) = pre.mcountinhibit.getLsbD (n.val + 3) := by
    have h : ∀ m : Fin 29, inhibitMask.getLsbD (m.val + 3) = true := by decide
    simp [inhibitVal, h n]
  unfold hpmStep eventCount hpmImplemented eventSelected hpmEventVal hpmImplemented
  rw [hi]
  by_cases h1 : n.val < pre.par.nhpm
  · simp only [h1, decide_true, if_true, Nat.not_le.2 h1, false_or]
    by_cases h2 : pre.mcountinhibit.getLsbD (n.val + 3) = true <;>
    by_cases h3 : pre.mhpmevent[n] &&& 0x03FFFFFFFFFFFFFF#64 = 0#64 <;>
    by_cases h4 : w = some (.mhpmcounter n) <;> simp_all
  · simp [h1, Nat.not_lt.1 h1]

theorem hpmWraps_iff (pre : State) (w : Option Csr) (post : State) (n : Fin 29) :
    hpmWraps pre w post n = decide (2 ^ 64 ≤ post.mhpmcounter[n].toNat + eventCount pre w n) := by
  unfold hpmWraps
  rw [hpmStep_eq]
  by_cases h : n.val < pre.par.nhpm
  · simp [hpmImplemented, h]
  · have hc : eventCount pre w n = 0 := by simp [eventCount, Nat.not_lt.1 h]
    have := post.mhpmcounter[n].isLt
    simp only [hpmImplemented, h, hc, decide_false, Bool.false_and]
    exact (decide_eq_false (by omega)).symm

/-- Counter stepping does what `CountersStep` says. -/
theorem stepCounters_steps (pre : State) (w : Option Csr) (b : Bool) (post : State) :
    CountersStep pre post w b (stepCounters pre w b post) := by
  have hf : ∀ q : Bool, (flagAt q 63).getLsbD 63 = q := by decide
  have ho : ∀ n : Fin 29, (stepCounters pre w b post).mhpmevent[n].getLsbD 63 =
      (post.mhpmevent[n].getLsbD 63 || hpmWraps pre w post n) := by
    intro n
    rw [stepCounters_mhpmevent, BitVec.getLsbD_or, hf]
  refine ⟨?_, ?_, fun n => ⟨?_, ?_⟩, fun k hk => ?_, ?_⟩
  · have hi : (inhibitVal pre).getLsbD 0 = pre.mcountinhibit.getLsbD 0 := by simp [inhibitVal, inhibitMask]
    simp only [stepCounters_mcycle, cycleStep, hi]
    generalize pre.mcountinhibit.getLsbD 0 = q
    cases q <;> by_cases h2 : w = some .mcycle <;> simp [h2, BitVec.ofNat_add]
  · have hi : (inhibitVal pre).getLsbD 2 = pre.mcountinhibit.getLsbD 2 := by simp [inhibitVal, inhibitMask]
    simp only [stepCounters_minstret, instretStep, hi]
    generalize pre.mcountinhibit.getLsbD 2 = q
    cases q <;> by_cases h2 : w = some .minstret <;> cases b <;> simp [h2]
  · rw [stepCounters_mhpmcounter, hpmStep_eq]
  · rw [stepCounters_mhpmevent, hpmWraps_iff, flagAt]
    simp only [decide_eq_true_eq]
    congr 1
  · rw [stepCounters_mip, BitVec.getLsbD_or]
    by_cases h64 : k < 64
    · rw [flagAt_getLsbD _ _ _ h64]; simp [hk]
    · rw [BitVec.getLsbD_of_ge _ _ (by omega : 64 ≤ k), BitVec.getLsbD_of_ge _ _ (by omega : 64 ≤ k)]; rfl
  · rw [stepCounters_mip, BitVec.getLsbD_or, flagAt_getLsbD _ _ _ (by decide), Bool.or_eq_true]
    simp only [decide_true, Bool.and_true, overflowRaised, List.any_eq_true, List.mem_finRange, true_and, OverflowRose, ho]
    apply or_congr Iff.rfl
    apply exists_congr
    intro n
    cases hpmWraps pre w post n <;> cases post.mhpmevent[n].getLsbD 63 <;> simp

/-- The counters step on the counters alone: the state they step from may differ in all else. -/
theorem CountersStep.of_same {pre w v t : State} {o : Option Csr} {b : Bool} (h : CountersStep pre w o b t)
    (h1 : w.mcycle = v.mcycle) (h2 : w.minstret = v.minstret) (h3 : w.mhpmcounter = v.mhpmcounter)
    (h4 : w.mhpmevent = v.mhpmevent) (h5 : w.mip = v.mip) : CountersStep pre v o b t := by
  unfold CountersStep OverflowRose at *
  rwa [h1, h2, h3, h4, h5] at h

/-- The general registers are not touched by counter stepping. -/
@[simp] theorem stepCounters_getX (pre : State) (w : Option Csr) (b : Bool) (s : State) (r : RegNum) :
    (stepCounters pre w b s).getX r = s.getX r := rfl

/-! ## Traps -/

theorem toSupervisor_iff (s : State) (code : Nat) : toSupervisor s code ↔ delegated s false code = true := by
  simp [toSupervisor, delegated, csrRead]

theorem trapValue_cases (s : State) (info : Word) : trapValue s info = info ∨ trapValue s info = 0#64 := by
  unfold trapValue
  split
  · split <;> simp
  · simp
  · simp

theorem trapValue_exact {s : State} (h : s.par.trapValue = .exact) (info : Word) : trapValue s info = info := by
  simp [trapValue, h]

theorem trapValue_zero {s : State} (h : s.par.trapValue = .zero) (info : Word) : trapValue s info = 0#64 := by
  simp [trapValue, h]

theorem trapTarget_eq (tvec : Word) (b : Bool) (k : Nat) :
    trapTarget tvec b k = (tvec &&& ~~~3#64) +
      (if b = true ∧ tvec.extractLsb' 0 2 = 1#2 then BitVec.ofNat 64 (4 * k) else 0#64) := by
  unfold trapTarget
  by_cases h : b = true ∧ tvec.extractLsb' 0 2 = 1#2
  · simp [h]
  · rw [if_neg h, if_neg (by simpa using h)]
    simp

theorem causeWord_eq (b : Bool) (k : Nat) :
    causeWord b k = ((if b then 0x8000000000000000#64 else 0#64) ||| BitVec.ofNat 64 k) := by
  cases b <;> rfl

/-- M-mode entry, with counters stepped, is what R192 says. -/
theorem enterM_entersM (s : State) (b : Bool) (k : Nat) (info : Word) :
    EntersM b k info s (stepCounters s none false (enterM s b k (trapValue s info))) := by
  refine ⟨rfl, ?_, ?_, fun h => trapValue_exact h info, fun h => trapValue_zero h info, rfl, rfl, rfl, rfl, ?_, rfl,
    ?_, ?_⟩
  · simp [causeWord_eq]
  · simpa using trapValue_cases s info
  · simp [trapTarget_eq]
  · simp [instretStep]
  · exact (withCountersOf_stepCounters s s none false s).trans (withCountersOf_self s)

/-- S-mode entry, with counters stepped, is what R193 says. -/
theorem enterS_entersS (s : State) (b : Bool) (k : Nat) (info : Word) :
    EntersS b k info s (stepCounters s none false (enterS s b k (trapValue s info))) := by
  refine ⟨rfl, ?_, ?_, fun h => trapValue_exact h info, fun h => trapValue_zero h info, rfl, rfl, ?_, rfl, ?_, ?_⟩
  · simp [causeWord_eq]
  · simpa using trapValue_cases s info
  · simp [trapTarget_eq]
  · simp [instretStep]
  · exact (withCountersOf_stepCounters s s none false s).trans (withCountersOf_self s)

/-- A trap to M-mode through a written vector answers the entry of R192. -/
theorem takeTrap_M {s : State} {b : Bool} {k : Nat} (hd : delegated s b k = false) (hv : s.mtvecWritten = true)
    (info : Word) : ∃ t, takeTrap b k info s = .next t ∧ EntersM b k info s t :=
  ⟨_, by simp [takeTrap, hd, hv], enterM_entersM s b k info⟩

/-- A trap to S-mode through a written vector answers the entry of R193. -/
theorem takeTrap_S {s : State} {b : Bool} {k : Nat} (hd : delegated s b k = true) (hv : s.stvecWritten = true)
    (info : Word) : ∃ t, takeTrap b k info s = .next t ∧ EntersS b k info s t :=
  ⟨_, by simp [takeTrap, hd, hv], enterS_entersS s b k info⟩

/-- A trap that answers a next state answers the entry of its level. -/
theorem takeTrap_cases {s t : State} {b : Bool} {k : Nat} {info : Word} (h : takeTrap b k info s = .next t) :
    (delegated s b k = true ∧ t = stepCounters s none false (enterS s b k (trapValue s info))) ∨
    (delegated s b k = false ∧ t = stepCounters s none false (enterM s b k (trapValue s info))) := by
  unfold takeTrap at h
  cases hd : delegated s b k <;> simp only [hd, if_true, Bool.false_eq_true, if_false] at h <;> split at h <;>
    simp_all

/-- A trap that answers a next state enters M-mode or S-mode. -/
theorem takeTrap_enters {s t : State} {b : Bool} {k : Nat} {info : Word} (h : takeTrap b k info s = .next t) :
    (delegated s b k = true ∧ EntersS b k info s t) ∨ (delegated s b k = false ∧ EntersM b k info s t) := by
  rcases takeTrap_cases h with ⟨hd, rfl⟩ | ⟨hd, rfl⟩
  · exact .inl ⟨hd, enterS_entersS s b k info⟩
  · exact .inr ⟨hd, enterM_entersM s b k info⟩

/-- An exception is taken at the level of R195. -/
theorem raise_takes (s : State) (e : Exception) (info : Word) :
    TakesException (raise e info s) (exceptionCode e) info s := by
  unfold TakesException raise
  rw [toSupervisor_iff]
  exact ⟨fun hd hv => takeTrap_S hd hv info, fun hd hv => takeTrap_M (by simpa using hd) hv info⟩

/-! ## The CSR instructions -/

/-- The six CSR instructions are one course (R143 to R149). -/
theorem exec_csr {i : Instr} {a : CsrAddr} {rd : RegNum} (h : csrOperands i = some (a, rd)) (s : State) :
    exec i s =
      match csrCheck s a (writesCsr i) with
      | none => raiseIllegal i s
      | some c =>
        if writesCsr i && csrWriteRefused c (csrWriteValue i s c) then .refused .statusTrapControl
        else .next (retire s (if writesCsr i then some c else none)
          { (if writesCsr i then csrWrite s c (csrWriteValue i s c) else s).setX rd (csrRead s c) with
            pc := s.pc + 4#64 }) := by
  cases i <;> simp only [csrOperands, Option.some.injEq, Prod.mk.injEq, reduceCtorEq] at h <;>
    obtain ⟨rfl, rfl⟩ := h <;> rfl

/-- A CSR instruction whose check passes and whose write is not refused completes. -/
theorem exec_csr_next {i : Instr} {a : CsrAddr} {rd : RegNum} {s : State} {c : Csr}
    (h : csrOperands i = some (a, rd)) (hc : csrCheck s a (writesCsr i) = some c)
    (hr : (writesCsr i && csrWriteRefused c (csrWriteValue i s c)) = false) :
    exec i s = .next (retire s (if writesCsr i then some c else none)
      { (if writesCsr i then csrWrite s c (csrWriteValue i s c) else s).setX rd (csrRead s c) with
        pc := s.pc + 4#64 }) := by
  rw [exec_csr h, hc]
  simp [hr]

/-- What a CSR instruction that answers a next state did: it trapped on a failed check, or it completed. -/
theorem exec_csr_cases {i : Instr} {a : CsrAddr} {rd : RegNum} {s t : State}
    (h : csrOperands i = some (a, rd)) (ht : exec i s = .next t) :
    (csrCheck s a (writesCsr i) = none ∧ raiseIllegal i s = .next t) ∨
    (∃ c, csrCheck s a (writesCsr i) = some c ∧
      (writesCsr i && csrWriteRefused c (csrWriteValue i s c)) = false ∧
      t = retire s (if writesCsr i then some c else none)
        { (if writesCsr i then csrWrite s c (csrWriteValue i s c) else s).setX rd (csrRead s c) with
          pc := s.pc + 4#64 }) := by
  rw [exec_csr h] at ht
  split at ht
  · exact .inl ⟨‹_›, ht⟩
  · rename_i c hc
    split at ht
    · cases ht
    · rename_i hr
      exact .inr ⟨c, hc, by simpa using hr, by simpa using ht.symm⟩

/-- The state a completing CSR instruction reaches is what `CompletesAccess` says. -/
theorem csr_completes (s w : State) (o : Option Csr) (rd : RegNum) (c : Csr) (hx : w.x = s.x) :
    CompletesAccess (.next (retire s o { w.setX rd (csrRead s c) with pc := s.pc + 4#64 })) s c rd
      { w with pc := s.pc } := by
  refine ⟨_, rfl, ?_, ?_, rfl, ?_⟩
  · exact getX_setX_same w rd (csrRead s c)
  · intro r hr
    exact (getX_setX_other w _ hr).trans (getX_of_x_eq hx r)
  · have h : withCountersOf s
        { retire s o { w.setX rd (csrRead s c) with pc := s.pc + 4#64 } with x := s.x, pc := s.pc } =
        { withCountersOf s (retire s o { w.setX rd (csrRead s c) with pc := s.pc + 4#64 }) with
          x := s.x, pc := s.pc } := rfl
    rw [h, retire, withCountersOf_stepCounters]
    unfold State.setX
    split <;> simp only [withCountersOf, hx]

/-! ## Every instruction -/

/-- Everything an instruction can do when it answers a next state. -/
theorem exec_cases {i : Instr} {s t : State} (h : exec i s = .next t) :
    (∃ e info, raise e info s = .next t) ∨
    (∃ a rd c, csrOperands i = some (a, rd) ∧ csrCheck s a (writesCsr i) = some c ∧
      (writesCsr i && csrWriteRefused c (csrWriteValue i s c)) = false ∧
      t = retire s (if writesCsr i then some c else none)
        { (if writesCsr i then csrWrite s c (csrWriteValue i s c) else s).setX rd (csrRead s c) with
          pc := s.pc + 4#64 }) ∨
    (i = .mret ∧ s.priv = .M ∧
      t = retire s none { s with mstatus := statusMret s.mstatus, priv := s.mstatus.mpp, pc := mepcVal s }) ∨
    (i = .sret ∧ s.priv ≠ .U ∧
      t = retire s none { s with mstatus := statusSret s.mstatus, priv := sretMode s.mstatus, pc := sepcVal s }) ∨
    (i = .wfi ∧ (t = startWait s ∨ t = wfiDone s)) := by
  have csr : ∀ a rd, csrOperands i = some (a, rd) → _ := fun a rd ho => exec_csr_cases ho h
  have fromCsr : ∀ a rd, csrOperands i = some (a, rd) →
      (∃ e info, raise e info s = .next t) ∨
      (∃ a rd c, csrOperands i = some (a, rd) ∧ csrCheck s a (writesCsr i) = some c ∧
        (writesCsr i && csrWriteRefused c (csrWriteValue i s c)) = false ∧
        t = retire s (if writesCsr i then some c else none)
          { (if writesCsr i then csrWrite s c (csrWriteValue i s c) else s).setX rd (csrRead s c) with
            pc := s.pc + 4#64 }) := by
    intro a rd ho
    rcases csr a rd ho with ⟨_, hr⟩ | ⟨c, h1, h2, h3⟩
    · exact .inl ⟨_, _, hr⟩
    · exact .inr ⟨a, rd, c, ho, h1, h2, h3⟩
  cases i
  case ecall => exact .inl ⟨_, _, h⟩
  case ebreak => exact .inl ⟨_, _, h⟩
  case mret =>
    simp only [exec, execMret] at h
    split at h
    · exact .inr (.inr (.inl ⟨rfl, ‹_›, by simpa using h.symm⟩))
    · exact .inl ⟨_, _, h⟩
  case sret =>
    simp only [exec, execSret] at h
    split at h
    · exact .inl ⟨_, _, h⟩
    · exact .inr (.inr (.inr (.inl ⟨rfl, ‹_›, by simpa using h.symm⟩)))
  case wfi =>
    simp only [exec, execWfi] at h
    split at h
    · exact .inl ⟨_, _, h⟩
    · refine .inr (.inr (.inr (.inr ⟨rfl, ?_⟩)))
      simp only [Host.Outcome.next.injEq] at h
      split at h
      · exact .inl h.symm
      · exact .inr h.symm
  all_goals
    rcases fromCsr _ _ rfl with h' | h'
    · exact .inl h'
    · exact .inr (.inl h')

/-! ## The step -/

/-- The platform's action changes `time`, `mip`, `ext_seip` and its own queue only. -/
theorem platformActs_frame (s : State) :
    { platformActs s with time := s.time, mip := s.mip, extSeip := s.extSeip, platform := s.platform } = s := by
  unfold platformActs
  split <;> rfl

/-- The fields a step looks at first are those from before the platform acted. -/
theorem platformActs_fields (s : State) :
    (platformActs s).par = s.par ∧ (platformActs s).priv = s.priv ∧ (platformActs s).pc = s.pc ∧
    (platformActs s).mem = s.mem ∧ (platformActs s).waiting = s.waiting ∧
    (platformActs s).waitSteps = s.waitSteps ∧ (platformActs s).mstatus = s.mstatus ∧
    (platformActs s).mtvecWritten = s.mtvecWritten ∧ (platformActs s).stvecWritten = s.stvecWritten := by
  unfold platformActs
  split <;> simp

/-- Everything the hart can do at a boundary when it answers a next state. -/
theorem hartActs_cases {s t : State} (h : hartActs s = .next t) :
    (∃ b k info, takeTrap b k info s = .next t) ∨
    (s.waiting = true ∧ (t = wfiDone s ∨ t = keepWaiting s)) ∨
    (s.waiting = false ∧ ∃ i, exec i s = .next t) := by
  unfold hartActs at h
  split at h
  · rename_i hw
    unfold waitStep at h
    split at h
    · exact .inr (.inl ⟨hw, .inl (by simpa using h.symm)⟩)
    · split at h
      · exact .inl ⟨_, _, _, h⟩
      · exact .inr (.inl ⟨hw, .inr (by simpa using h.symm)⟩)
  · rename_i hw
    have hw' : s.waiting = false := by simpa using hw
    split at h
    · exact .inl ⟨_, _, _, h⟩
    · unfold runInstruction at h
      split at h
      · exact .inl ⟨_, _, _, h⟩
      · split at h
        · exact .inr (.inr ⟨hw', _, h⟩)
        · split at h
          · cases h
          · exact .inl ⟨_, _, _, h⟩
        · cases h
        · exact .inl ⟨_, _, _, h⟩

end Sys2Proof.Machine
end

