-- ==== Sys2Proof/Laws/Memory.lean ====
section
/-! SUPPORT. The laws of memory: a read after a write, and the canonical form. -/

namespace Sys2Proof.Machine

theorem insertCell_lookup_same (k : Nat) (b : Byte) (m : Memory) : (insertCell k b m).lookup k = some b := by
  induction m with
  | nil => simp [insertCell]
  | cons c rest ih =>
    obtain ⟨ck, cb⟩ := c
    unfold insertCell
    split
    · simp
    · split
      · simp
      · have hk : (k == ck) = false := by simpa using ‹¬k = ck›
        simp only [List.lookup_cons, hk]
        exact ih

theorem insertCell_lookup_other {k j : Nat} (b : Byte) (m : Memory) (h : j ≠ k) :
    (insertCell k b m).lookup j = m.lookup j := by
  have hj : (j == k) = false := by simpa using h
  induction m with
  | nil => simp [insertCell, List.lookup_cons, hj]
  | cons c rest ih =>
    obtain ⟨ck, cb⟩ := c
    unfold insertCell
    split
    · simp only [List.lookup_cons, hj]
    · split
      · rename_i hk
        subst hk
        simp only [List.lookup_cons, hj]
      · simp only [List.lookup_cons, ih]

/-- A read after a write to the same address gives the byte written. -/
theorem Memory.read_write_same (m : Memory) (a : Word) (b : Byte) : (m.write a b).read a = some b :=
  insertCell_lookup_same _ _ _

/-- A write leaves every other address alone. -/
theorem Memory.read_write_other (m : Memory) {a a' : Word} (b : Byte) (h : a' ≠ a) :
    (m.write a b).read a' = m.read a' :=
  insertCell_lookup_other _ _ (fun e => h (BitVec.eq_of_toNat_eq e))

theorem risingFrom_mono {lo lo' : Nat} {m : Memory} (h : lo' ≤ lo) (hm : risingFrom lo m = true) :
    risingFrom lo' m = true := by
  cases m with
  | nil => rfl
  | cons c rest =>
    simp only [risingFrom, Bool.and_eq_true, decide_eq_true_eq] at hm ⊢
    exact ⟨by omega, hm.2⟩

theorem insertCell_rising {lo k : Nat} (b : Byte) {m : Memory} (hk : lo ≤ k) (hm : risingFrom lo m = true) :
    risingFrom lo (insertCell k b m) = true := by
  induction m generalizing lo with
  | nil => simp [insertCell, risingFrom, hk]
  | cons c rest ih =>
    simp only [risingFrom, Bool.and_eq_true, decide_eq_true_eq] at hm
    unfold insertCell
    split
    · simp only [risingFrom, Bool.and_eq_true, decide_eq_true_eq]
      exact ⟨hk, by omega, hm.2⟩
    · split
      · rename_i hkc
        subst hkc
        simp only [risingFrom, Bool.and_eq_true, decide_eq_true_eq]
        exact hm
      · simp only [risingFrom, Bool.and_eq_true, decide_eq_true_eq]
        exact ⟨hm.1, ih (by omega) hm.2⟩

theorem insertCell_all {k : Nat} (b : Byte) {m : Memory} (p : Host.Cell → Bool) (hk : p (k, b) = true)
    (hm : m.all p = true) : (insertCell k b m).all p = true := by
  induction m with
  | nil => simpa [insertCell] using hk
  | cons c rest ih =>
    simp only [List.all_cons, Bool.and_eq_true] at hm
    unfold insertCell
    split
    · simp only [List.all_cons, Bool.and_eq_true]
      exact ⟨hk, hm⟩
    · split
      · simp only [List.all_cons, Bool.and_eq_true]
        exact ⟨hk, hm.2⟩
      · simp only [List.all_cons, Bool.and_eq_true]
        exact ⟨hm.1, ih hm.2⟩

/-- A write keeps the canonical form. -/
theorem Memory.write_wf {m : Memory} (a : Word) (b : Byte) (h : m.wf = true) : (m.write a b).wf = true := by
  simp only [Memory.wf, Memory.write, Bool.and_eq_true] at h ⊢
  exact ⟨insertCell_rising b (Nat.zero_le _) h.1, insertCell_all b _ (by simpa using a.isLt) h.2⟩

/-- Writing bytes in a row keeps the canonical form. -/
theorem Memory.writeBytes_wf {m : Memory} (a : Word) (bs : List Byte) (h : m.wf = true) :
    (m.writeBytes a bs).wf = true := by
  induction bs generalizing m a with
  | nil => exact h
  | cons b rest ih => exact ih _ (Memory.write_wf a b h)

/-- Placing a word keeps the canonical form. -/
theorem placeWord_mem_wf {s : State} (w : BitVec 32) (h : s.mem.wf = true) : (placeWord s w).mem.wf = true :=
  Memory.writeBytes_wf _ _ h

/-- Memory after reset is in canonical form. -/
theorem reset_mem_wf (p : Params) : (State.resetWith p).mem.wf = true := rfl

end Sys2Proof.Machine
end

