-- ==== Sys2Proof/Laws/PerInstr.lean ====
section
/-! SUPPORT. One lemma per constructor about the instruction as syntax: the word of every instruction belongs to its
row of spec/opcode_table.json. -/

namespace Sys2Proof.Laws.TableRow

/-- The row's mask and match (30_encoding.md R123, R124). -/
def row : Instr → BitVec 32 × BitVec 32
  | .csrrw _ _ _ => (0x0000707F#32, 0x00001073#32)
  | .csrrs _ _ _ => (0x0000707F#32, 0x00002073#32)
  | .csrrc _ _ _ => (0x0000707F#32, 0x00003073#32)
  | .csrrwi _ _ _ => (0x0000707F#32, 0x00005073#32)
  | .csrrsi _ _ _ => (0x0000707F#32, 0x00006073#32)
  | .csrrci _ _ _ => (0x0000707F#32, 0x00007073#32)
  | .ecall => (0xFFFFFFFF#32, 0x00000073#32)
  | .ebreak => (0xFFFFFFFF#32, 0x00100073#32)
  | .sret => (0xFFFFFFFF#32, 0x10200073#32)
  | .mret => (0xFFFFFFFF#32, 0x30200073#32)
  | .wfi => (0xFFFFFFFF#32, 0x10500073#32)

/-- The instruction's word, under its row's mask, is the row's match. -/
def Statement (i : Instr) : Prop := encode i &&& (row i).1 = (row i).2

theorem systemWord_row (csr : CsrAddr) (rs1 : BitVec 5) (f : BitVec 3) (rd : RegNum) :
    systemWord csr rs1 f rd &&& 0x0000707F#32 = (f.zeroExtend 32 <<< 12) ||| 0x73#32 := by
  ext k hk
  simp only [systemWord, BitVec.getElem_and, BitVec.getElem_or, BitVec.getElem_append]
  interval_cases k <;> simp [BitVec.getElem_shiftLeft]

theorem csrrw (rd : RegNum) (csr : CsrAddr) (rs1 : RegNum) : Statement (.csrrw rd csr rs1) := systemWord_row _ _ _ _
theorem csrrs (rd : RegNum) (csr : CsrAddr) (rs1 : RegNum) : Statement (.csrrs rd csr rs1) := systemWord_row _ _ _ _
theorem csrrc (rd : RegNum) (csr : CsrAddr) (rs1 : RegNum) : Statement (.csrrc rd csr rs1) := systemWord_row _ _ _ _
theorem csrrwi (rd : RegNum) (csr : CsrAddr) (uimm : BitVec 5) : Statement (.csrrwi rd csr uimm) := systemWord_row _ _ _ _
theorem csrrsi (rd : RegNum) (csr : CsrAddr) (uimm : BitVec 5) : Statement (.csrrsi rd csr uimm) := systemWord_row _ _ _ _
theorem csrrci (rd : RegNum) (csr : CsrAddr) (uimm : BitVec 5) : Statement (.csrrci rd csr uimm) := systemWord_row _ _ _ _
theorem ecall : Statement .ecall := by unfold Statement; decide
theorem ebreak : Statement .ebreak := by unfold Statement; decide
theorem sret : Statement .sret := by unfold Statement; decide
theorem mret : Statement .mret := by unfold Statement; decide
theorem wfi : Statement .wfi := by unfold Statement; decide

end Sys2Proof.Laws.TableRow
end

