-- ==== Sys2Proof/Tests/Slice0.lean ====
section
/-! SUPPORT. Tests: the checks of WellFormed, decoding of words written out from 30_encoding.md, one or two vectors of
95_test_vectors.md for each instruction, and a state and operands that meet the hypotheses of each obligation. -/

namespace Sys2Proof.Tests
open Sys2Proof Sys2Proof.Machine

/-! ## Helpers -/

/-- The setting of the test vectors (95_test_vectors.md section 2): no compressed instructions, trap values exact, unnamed
bits standard, no triggers; two event counters. -/
def vecParams : Params where
  hasC := false
  nhpm := 2
  mvendorid := 0#32
  marchid := 0#64
  mimpid := 0#64
  mhartid := 0#64
  mconfigptr := 0#64
  misa := 0x8000000000140120#64
  resetVector := 0x80000000#64
  bigEndian := false
  mtvecBaseMask := 0xFFFFFFFFFFFFFFFC#64
  stvecBaseMask := 0xFFFFFFFFFFFFFFFC#64
  mtvalWritable := false
  sieGatesU := false
  twLimit := 0
  misalignedTraps := false
  platformIrqMask := 0#64
  trapValue := .exact
  unnamedBits := .standard
  triggers := .noTriggers

/-- `mstatus` from its word. -/
def statusOf (w : Word) : Status := statusWrite false Status.reset w

/-- A state in a mode, with both vectors written. -/
def inMode (p : Priv) : State :=
  { State.resetWith vecParams with
    priv := p, mtvec := 0x80000000#64, mtvecWritten := true, stvec := 0x40000000#64, stvecWritten := true }

/-- A machine-mode state whose `x5` holds a value. -/
def withX5 (v : Word) : State := (inMode .M).setX 5#5 v

/-- The answer is a next state of which a check holds. -/
def answers (r : Result) (check : State → Bool) : Bool :=
  match r with
  | .next t => check t
  | _ => false

theorem next_of_answers {r : Result} (h : answers r (fun _ => true) = true) : ∃ t, r = .next t := by
  cases r with
  | next t => exact ⟨t, rfl⟩
  | fault f => cases h
  | refused f => cases h

/-! ## WellFormed: an ill-formed term for each check -/

theorem test_wellFormed_accepts : vecParams.wellFormed = true := by decide
theorem test_wellFormed_refuses_nhpm : { vecParams with nhpm := 30 }.wellFormed = false := by decide
theorem test_wellFormed_refuses_mxl : { vecParams with misa := 0x4000000000140120#64 }.wellFormed = false := by decide
theorem test_wellFormed_refuses_misa_c : { vecParams with hasC := true }.wellFormed = false := by decide
theorem test_wellFormed_refuses_misa_f : { vecParams with misa := 0x8000000000140100#64 }.wellFormed = false := by decide
theorem test_wellFormed_refuses_misa_i : { vecParams with misa := 0x8000000000140020#64 }.wellFormed = false := by decide
theorem test_wellFormed_refuses_misa_s : { vecParams with misa := 0x8000000000100120#64 }.wellFormed = false := by decide
theorem test_wellFormed_refuses_misa_u : { vecParams with misa := 0x8000000000040120#64 }.wellFormed = false := by decide
theorem test_wellFormed_refuses_resetVector : { vecParams with resetVector := 0x80000002#64 }.wellFormed = false := by
  decide
theorem test_wellFormed_refuses_mtvecMask : { vecParams with mtvecBaseMask := 1#64 }.wellFormed = false := by decide
theorem test_wellFormed_refuses_stvecMask : { vecParams with stvecBaseMask := 2#64 }.wellFormed = false := by decide
theorem test_wellFormed_refuses_irqMask : { vecParams with platformIrqMask := 0x8000#64 }.wellFormed = false := by decide

/-! ## Decoding: words written out field by field from 30_encoding.md R121 to R124

`csr` (12), `rs1` or `uimm` (5), `funct3` (3), `rd` (5), `opcode` (7). -/

theorem test_decode_csrrw :
    decodeWord 0b001101000000_00101_001_00110_1110011#32 = some (.csrrw 6#5 0x340#12 5#5) := by decide
theorem test_decode_csrrs :
    decodeWord 0b111100010100_00000_010_01101_1110011#32 = some (.csrrs 13#5 0xF14#12 0#5) := by decide
theorem test_decode_csrrc :
    decodeWord 0b001100000100_00111_011_01000_1110011#32 = some (.csrrc 8#5 0x304#12 7#5) := by decide
theorem test_decode_csrrwi :
    decodeWord 0b001101000000_10101_101_00000_1110011#32 = some (.csrrwi 0#5 0x340#12 21#5) := by decide
theorem test_decode_csrrsi :
    decodeWord 0b000100000000_00010_110_00000_1110011#32 = some (.csrrsi 0#5 0x100#12 2#5) := by decide
theorem test_decode_csrrci :
    decodeWord 0b000101000100_00010_111_00000_1110011#32 = some (.csrrci 0#5 0x144#12 2#5) := by decide
theorem test_decode_ecall : decodeWord 0b000000000000_00000_000_00000_1110011#32 = some .ecall := by decide
theorem test_decode_ebreak : decodeWord 0b000000000001_00000_000_00000_1110011#32 = some .ebreak := by decide
theorem test_decode_sret : decodeWord 0b000100000010_00000_000_00000_1110011#32 = some .sret := by decide
theorem test_decode_mret : decodeWord 0b001100000010_00000_000_00000_1110011#32 = some .mret := by decide
theorem test_decode_wfi : decodeWord 0b000100000101_00000_000_00000_1110011#32 = some .wfi := by decide
/-- `rd` not 0 in an ECALL, `funct3` 100, an SFENCE.VMA, another opcode: no row of the table (R125). -/
theorem test_decode_refuses :
    decodeWord 0x000000F3#32 = none ∧ decodeWord 0x00004073#32 = none ∧ decodeWord 0x12000073#32 = none ∧
    decodeWord 0x00000013#32 = none := by decide
/-- Little-endian bytes (R101): the first word of program A, 0x30529073. -/
theorem test_decode_bytes :
    decode [0x73#8, 0x90#8, 0x52#8, 0x30#8] = .instr (.csrrw 0#5 0x305#12 5#5) [] := by decide
/-- The listing has 132 registers (R19). -/
theorem test_listing_length : Csr.listing.length = 132 := by decide +kernel
/-- 0xB01, 0x321 and 0x322 hold no register (R21). -/
theorem test_listing_gaps :
    Csr.ofAddr 0xB01#12 = none ∧ Csr.ofAddr 0x321#12 = none ∧ Csr.ofAddr 0x322#12 = none := by decide +kernel

/-! ## Instructions -/

/-- The example of R143. -/
theorem test_csrrw_example :
    answers (exec (.csrrw 6#5 0x340#12 5#5) { withX5 0x2222#64 with mscratch := 0x1111#64 })
      (fun t => t.getX 6#5 == 0x1111#64 && t.mscratch == 0x2222#64 && t.minstret == 1#64) = true := by decide
/-- `rd` = `rs1` swaps (R143). -/
theorem test_csrrw_swaps :
    answers (exec (.csrrw 5#5 0x340#12 5#5) { withX5 0x1234#64 with mscratch := 0x80010000#64 })
      (fun t => t.getX 5#5 == 0x80010000#64 && t.mscratch == 0x1234#64) = true := by decide
/-- The example of R144. -/
theorem test_csrrs_example :
    answers (exec (.csrrs 0#5 0x300#12 5#5) (withX5 8#64)) (fun t => mstatusVal t == 0xA00000008#64) = true := by decide
/-- A pure read of a read-only register completes (R17, R144). -/
theorem test_csrrs_reads_mhartid :
    answers (exec (.csrrs 13#5 0xF14#12 0#5) { inMode .M with par := { vecParams with mhartid := 7#64 } })
      (fun t => t.getX 13#5 == 7#64 && t.pc == 0x80000004#64) = true := by decide
/-- The example of R145, with `x5` for `x7`. -/
theorem test_csrrc_example :
    answers (exec (.csrrc 8#5 0x304#12 5#5) { withX5 0x80#64 with mie := 0xAAA#64 })
      (fun t => t.getX 8#5 == 0xAAA#64 && t.mie == 0xA2A#64) = true := by decide
/-- The example of R146. -/
theorem test_csrrwi_example :
    answers (exec (.csrrwi 0#5 0x340#12 21#5) (inMode .M)) (fun t => t.mscratch == 21#64 && t.x == (inMode .M).x) = true := by
  decide
/-- Program C, step 2 (R147). -/
theorem test_csrrsi_sets_sie :
    answers (exec (.csrrsi 0#5 0x100#12 2#5) (inMode .S)) (fun t => mstatusVal t == 0xA00000002#64) = true := by decide
/-- The example of R148. -/
theorem test_csrrci_example :
    answers (exec (.csrrci 9#5 0x300#12 8#5) { inMode .M with mstatus := statusOf 0xA00000088#64 })
      (fun t => t.getX 9#5 == 0xA00000088#64 && mstatusVal t == 0xA00000080#64) = true := by decide
/-- The example of R162. -/
theorem test_ecall_example :
    answers (exec .ecall { inMode .U with pc := 0x1000#64, mstatus := statusOf 0xA00000008#64 })
      (fun t => t.mcause == 8#64 && t.mepc == 0x1000#64 && t.mtval == 0#64 && mstatusVal t == 0xA00000080#64 &&
        t.priv == .M && t.pc == 0x80000000#64 && t.minstret == 0#64) = true := by decide
/-- A delegated call from U-mode (R193, R195). -/
theorem test_ecall_delegated :
    answers (exec .ecall { inMode .U with pc := 0x1000#64, medeleg := 0x100#64 })
      (fun t => t.scause == 8#64 && t.sepc == 0x1000#64 && t.priv == .S && t.pc == 0x40000000#64 && t.mcause == 0#64) =
      true := by decide
/-- The example of R163. -/
theorem test_ebreak_example :
    answers (exec .ebreak { inMode .M with pc := 0x80000010#64, mtvec := 0x80000200#64 })
      (fun t => t.mcause == 3#64 && t.mepc == 0x80000010#64 && t.pc == 0x80000200#64 && t.mtval == 0x80000010#64) =
      true := by decide
/-- V-RET-3. -/
theorem test_mret_to_supervisor :
    answers (exec .mret { inMode .M with mstatus := statusOf 0xA00020800#64, mepc := 0x3000#64 })
      (fun t => mstatusVal t == 0xA00000080#64 && t.priv == .S && t.pc == 0x3000#64) = true := by decide
/-- V-RET-4: `MPRV` is kept on a return to M-mode. -/
theorem test_mret_keeps_mprv :
    answers (exec .mret { inMode .M with mstatus := statusOf 0xA00021808#64, mepc := 0x80000000#64 })
      (fun t => mstatusVal t == 0xA00020080#64 && t.priv == .M) = true := by decide
/-- V-RET-7. -/
theorem test_sret_from_machine :
    answers (exec .sret { inMode .M with mstatus := statusOf 0xA00021928#64, sepc := 0x3000#64 })
      (fun t => mstatusVal t == 0xA0000182A#64 && t.priv == .S && t.pc == 0x3000#64) = true := by decide
/-- V-TRAP-9. -/
theorem test_sret_in_user_mode :
    answers (exec .sret { inMode .U with pc := 0x1000#64 })
      (fun t => t.mcause == 2#64 && t.mepc == 0x1000#64 && t.mtval == 0x10200073#64 && t.priv == .M) = true := by decide
/-- V-WFI-1. -/
theorem test_wfi_completes :
    exec .wfi { inMode .M with mie := 0x80#64, mip := 0x80#64 } =
      .next (wfiDone { inMode .M with mie := 0x80#64, mip := 0x80#64 }) := by
  have h : wakes { inMode .M with mie := 0x80#64, mip := 0x80#64 } = true := by decide
  have l : wfiLimited { inMode .M with mie := 0x80#64, mip := 0x80#64 } = false := by decide
  simp [exec, execWfi, wfiTimesOutAtOnce, wfiStartsWait, h, l]

/-! ## Interrupts and the step -/

/-- V-INT-12. -/
theorem test_machine_interrupt_first :
    pendingInterrupt { inMode .S with
      mstatus := statusOf 0xA00000002#64, mip := 0x282#64, mie := 0x282#64, mideleg := 0x222#64 } = some 7 := by decide
/-- V-INT-15. -/
theorem test_vectored_timer_interrupt :
    answers (step { inMode .M with
        pc := 0x80000010#64, mstatus := statusOf 0xA00000008#64, mip := 0x80#64, mie := 0x80#64,
        mtvec := 0x80000101#64 })
      (fun t => t.mcause == 0x8000000000000007#64 && t.mepc == 0x80000010#64 && t.mtval == 0#64 &&
        mstatusVal t == 0xA00001880#64 && t.mip == 0x80#64 && t.pc == 0x8000011C#64) = true := by decide
/-- V-INT-17. -/
theorem test_delegated_interrupt_in_user_mode :
    answers (step { inMode .U with
        pc := 0x1000#64, mip := 2#64, mie := 2#64, mideleg := 2#64, stvec := 0x40000001#64 })
      (fun t => t.scause == 0x8000000000000001#64 && t.sepc == 0x1000#64 && t.priv == .S && t.pc == 0x40000004#64) =
      true := by decide
/-- V-TRAP-10. -/
theorem test_unbacked_fetch :
    answers (step { inMode .M with pc := 0x5000#64, mstatus := statusOf 0xA00000008#64 })
      (fun t => t.mcause == 1#64 && t.mepc == 0x5000#64 && t.mtval == 0x5000#64 && mstatusVal t == 0xA00001880#64) =
      true := by decide

/-! ## Witnesses: a state and operands that meet the hypotheses of each obligation -/

/-- A state of a mode with a word at `pc`. -/
def fetching (p : Priv) (w : Nat) : State := (inMode p).withFetchWord 32 w

theorem test_witness_ResetIsLegal : vecParams.wellFormed = true := by decide

theorem test_witness_StepRunsDecodedInstruction :
    (fetching .U 0x00000073).waiting = false ∧ pendingInterrupt (platformActs (fetching .U 0x00000073)) = none ∧
    (fetching .U 0x00000073).mem.read 0x80000000#64 = some 0x73#8 ∧
    (fetching .U 0x00000073).mem.read (0x80000000#64 + 1#64) = some 0#8 ∧
    (fetching .U 0x00000073).mem.read (0x80000000#64 + 2#64) = some 0#8 ∧
    (fetching .U 0x00000073).mem.read (0x80000000#64 + 3#64) = some 0#8 ∧
    (fetching .U 0x00000073).pc = 0x80000000#64 ∧
    decode [0x73#8, 0#8, 0#8, 0#8] = .instr .ecall [] := by decide

theorem test_witness_UnlistedBytesStopOrTrap_halfword :
    fetchBytes (fetching .M 0x4501) = some [0x01#8, 0x45#8, 0#8, 0#8] ∧
    (0x01#8 : Byte).extractLsb' 0 2 ≠ 3#2 ∧ (fetching .M 0x4501).par.hasC = false ∧
    (fetching .M 0x4501).waiting = false ∧ pendingInterrupt (platformActs (fetching .M 0x4501)) = none ∧
    (fetching .M 0x4501).mtvecWritten = true := by decide
theorem test_witness_UnlistedBytesStopOrTrap_compressed :
    let s : State := { fetching .M 0x4502 with par := { vecParams with hasC := true } }
    fetchBytes s = some [0x02#8, 0x45#8, 0#8, 0#8] ∧ (0x02#8 : Byte).extractLsb' 0 2 ≠ 3#2 ∧ s.par.hasC = true ∧
    s.waiting = false ∧ pendingInterrupt (platformActs s) = none := by decide
theorem test_witness_UnlistedBytesStopOrTrap_word :
    fetchBytes (fetching .M 0x00000013) = some [0x13#8, 0#8, 0#8, 0#8] ∧ (0x13#8 : Byte).extractLsb' 0 2 = 3#2 ∧
    decodeWord (0#8 ++ 0#8 ++ 0#8 ++ 0x13#8) = none ∧ (fetching .M 0x00000013).waiting = false ∧
    pendingInterrupt (platformActs (fetching .M 0x00000013)) = none := by decide

/-- Nothing backed (`k` = 0), and only the last byte not backed (`k` = 3). -/
theorem test_witness_UnbackedFetchTakesAccessFault :
    ((inMode .M).waiting = false ∧ pendingInterrupt (platformActs (inMode .M)) = none ∧
      (inMode .M).mtvecWritten = true ∧ (inMode .M).mem.read ((inMode .M).pc + BitVec.ofNat 64 0) = none) ∧
    (let s : State := { inMode .M with mem := [(0x80000000, 0x73#8), (0x80000001, 0#8), (0x80000002, 0#8)] }
     s.waiting = false ∧ pendingInterrupt (platformActs s) = none ∧ s.mtvecWritten = true ∧
      s.mem.read (s.pc + BitVec.ofNat 64 3) = none) := by decide

theorem test_witness_StepKeepsMemoryAndParameters : ∃ t, step (fetching .M 0x30529073) = .next t :=
  next_of_answers (by decide)

theorem test_witness_StepKeepsLegal :
    Legal (fetching .S 0x14029073) ∧ ∃ t, step (fetching .S 0x14029073) = .next t :=
  ⟨⟨by decide, by decide, by decide, by decide, by decide, by decide, by decide, by decide, by decide, by decide,
    by decide, by decide, fun _ => by decide⟩, next_of_answers (by decide)⟩

/-- No input queued; with platform interrupt 16 and without it: bit 16 falls under one clause, then under the other. -/
theorem test_witness_PlatformDrivesOnlyItsBits :
    (let s : State := { inMode .M with
      par := { vecParams with platformIrqMask := 0x10000#64 }, platform := [⟨true, false, true, true, false, 0x10000#64⟩] }
     s.platform = ⟨true, false, true, true, false, 0x10000#64⟩ :: [] ∧ s.par.platformIrqMask.getLsbD 16 = true) ∧
    (inMode .M).platform = [] ∧ (inMode .M).par.platformIrqMask.getLsbD 16 = false ∧
    (platformActs { inMode .M with platform := [⟨true, false, true, true, false, 0x10000#64⟩] }).mip.getLsbD 16 = false := by
  decide

/-- An unlisted address, and a machine register in U-mode. -/
theorem test_witness_FailedCheckTakesIllegalInstruction :
    csrCheck (inMode .M) 0xB01#12 (writesCsr (.csrrs 1#5 0xB01#12 0#5)) = none ∧
    csrCheck (inMode .U) 0x300#12 (writesCsr (.csrrw 1#5 0x300#12 2#5)) = none ∧
    csrOperands (.csrrw 1#5 0x300#12 2#5) = some (0x300#12, 1#5) ∧
    (inMode .M).mtvecWritten = true ∧ ¬ toSupervisor (inMode .U) 2 ∧ (inMode .U).mtvecWritten = true ∧
    toSupervisor { inMode .U with medeleg := 4#64 } 2 ∧ (inMode .U).stvecWritten = true := by
  unfold toSupervisor; decide +kernel

/-- A write with mask 0 in `x1`, and a pure read, of `mhartid`. -/
theorem test_witness_ReadOnlyAddressesRejectWrites :
    (0xF14#12 : CsrAddr).extractLsb' 10 2 = 3#2 ∧ (inMode .M).mtvecWritten = true ∧
    writesCsr (.csrrs 3#5 0xF14#12 1#5) = true ∧ writesCsr (.csrrs 3#5 0xF14#12 0#5) = false ∧
    (inMode .M).priv = .M ∧ Csr.mhartid.addr = 0xF14#12 := by decide

theorem test_witness_CsrrwReadsAndWrites :
    csrCheck (withX5 0x2F02E7FEA#64) 0x300#12 true = some .mstatus ∧
    (withX5 0x2F02E7FEA#64).getX 5#5 &&& 0x500000#64 = 0#64 := by decide +kernel
theorem test_witness_CsrrsReadsAndSets :
    csrCheck (withX5 0x200#64) 0x344#12 (5#5 != 0#5) = some .mip ∧
    csrCheck (withX5 0x88#64) 0x300#12 (5#5 != 0#5) = some .mstatus ∧
    (csrRead (withX5 0x88#64) .mstatus ||| (withX5 0x88#64).getX 5#5) &&& 0x500000#64 = 0#64 ∧
    csrCheck (inMode .M) 0xF14#12 (0#5 != 0#5) = some .mhartid := by decide +kernel
theorem test_witness_CsrrcReadsAndClears :
    csrCheck (withX5 0x500000#64) 0x300#12 (5#5 != 0#5) = some .mstatus ∧
    csrRead (withX5 0x500000#64) .mstatus &&& ~~~(withX5 0x500000#64).getX 5#5 &&& 0x500000#64 = 0#64 ∧
    csrCheck (inMode .S) 0xDA0#12 (0#5 != 0#5) = some .scountovf := by decide +kernel
theorem test_witness_CsrrwiReadsAndWrites :
    csrCheck (inMode .S) 0x140#12 true = some .sscratch := by decide +kernel
theorem test_witness_CsrrsiReadsAndSets :
    csrCheck (inMode .M) 0x300#12 (31#5 != 0#5) = some .mstatus ∧
    csrRead (inMode .M) .mstatus &&& 0x500000#64 = 0#64 ∧
    csrCheck (inMode .M) 0xC00#12 (0#5 != 0#5) = some .cycle := by decide +kernel
theorem test_witness_CsrrciReadsAndClears :
    csrCheck (inMode .M) 0x344#12 (2#5 != 0#5) = some .mip ∧
    csrCheck (inMode .M) 0x300#12 (8#5 != 0#5) = some .mstatus ∧
    csrRead (inMode .M) .mstatus &&& 0x500000#64 = 0#64 ∧
    csrCheck (inMode .M) 0xC1F#12 (0#5 != 0#5) = some (.hpmcounter 28) := by decide +kernel

/-- The hypothesis, and bit 20 alone and bit 22 alone in the source. -/
theorem test_witness_SettingTrapControlIsRefused :
    (withX5 0x100000#64).priv = .M ∧ (withX5 0x100000#64).getX 5#5 &&& 0x500000#64 ≠ 0#64 ∧
    (withX5 0x400000#64).priv = .M ∧
    (csrRead (withX5 0x400000#64) .mstatus ||| (withX5 0x400000#64).getX 5#5) &&& 0x500000#64 ≠ 0#64 := by decide

/-- One that writes and one that does not. -/
theorem test_witness_CsrInstructionsFrame :
    (csrCheck (withX5 3#64) 0x340#12 (writesCsr (.csrrw 6#5 0x340#12 5#5)) = some .mscratch ∧
      ∃ t, exec (.csrrw 6#5 0x340#12 5#5) (withX5 3#64) = .next t) ∧
    (csrCheck (withX5 3#64) 0x340#12 (writesCsr (.csrrci 6#5 0x340#12 0#5)) = some .mscratch ∧
      ∃ t, exec (.csrrci 6#5 0x340#12 0#5) (withX5 3#64) = .next t) :=
  ⟨⟨by decide +kernel, next_of_answers (by decide)⟩, ⟨by decide +kernel, next_of_answers (by decide)⟩⟩

theorem test_witness_RegisterZeroDiscardsWrites :
    csrOperands (.csrrs 0#5 0x340#12 5#5) = some (0x340#12, 0#5) ∧
    ∃ t, exec (.csrrs 0#5 0x340#12 5#5) (withX5 3#64) = .next t := ⟨rfl, next_of_answers (by decide)⟩

/-- The four values of the `MPP` field, and a hart that supports big-endian. -/
theorem test_witness_MstatusTakesWrittenBits :
    (∀ f : Fin 4, let s := withX5 (BitVec.ofNat 64 (f.val * 0x800))
      s.priv = .M ∧ s.getX 5#5 &&& 0x500000#64 = 0#64 ∧ (s.getX 5#5).extractLsb' 11 2 = BitVec.ofNat 2 f.val) ∧
    (let s : State := { withX5 0x3000000040#64 with par := { vecParams with bigEndian := true } }
     s.priv = .M ∧ s.getX 5#5 &&& 0x500000#64 = 0#64 ∧ s.par.bigEndian = true ∧ s.par.unnamedBits = .standard) := by
  decide

theorem test_witness_SstatusIsAViewOfMstatus : (inMode .S).priv ≠ .U := by decide

theorem test_witness_FloatCsrsAreWindowsOnFcsr :
    ({ inMode .U with mstatus := statusOf 0x2000#64 } : State).mstatus.fs ≠ 0#2 ∧
    (inMode .U).mstatus.fs = 0#2 ∧ (inMode .U).mtvecWritten = true ∧
    csrOperands (.csrrwi 4#5 0x003#12 0#5) = some (0x003#12, 4#5) := by decide

/-- The hypotheses "in M-mode" and "not in U-mode" of the statements about the trap, mask and constant registers. -/
theorem test_witness_TrapVectorsTakeBaseAndLegalMode : (inMode .M).priv = .M ∧ (inMode .S).priv ≠ .U := by decide
theorem test_witness_SavedPcsDropTheirLowBits : (withX5 0x80000103#64).priv = .M ∧ (inMode .S).priv ≠ .U := by decide
theorem test_witness_PlainTrapRegistersStoreEveryBit : (inMode .M).priv = .M ∧ (inMode .S).priv ≠ .U := by decide
theorem test_witness_TrapValueRegistersFollowTheirWriteRules : (withX5 9#64).priv = .M ∧ (inMode .S).priv ≠ .U := by
  decide
theorem test_witness_MaskedRegistersReadBackTheirBits :
    (withX5 0xFFFFFFFFFFFFFFFF#64).priv = .M ∧ (Csr.mie = .mie ∧ (0x2AAA#64 ||| (vecParams.platformIrqMask &&&
      0xFFFFFFFFFFFF0000#64)) = 0x2AAA#64) := by decide
/-- Bit 13, where the clauses meet: a write through `sip` clears it where it is delegated, and keeps it where it is not. -/
theorem test_witness_SupervisorInterruptViewsReachDelegatedBits :
    (inMode .S).priv ≠ .U ∧
    answers (exec (.csrrw 0#5 0x144#12 0#5) { inMode .S with mideleg := 0x2002#64, mip := 0x2002#64 })
      (fun t => t.mip == 0#64) = true ∧
    answers (exec (.csrrw 0#5 0x144#12 0#5) { inMode .S with mip := 0x2002#64 }) (fun t => t.mip == 0x2002#64) = true := by
  decide +kernel
/-- V-WARL-15: a write of `mip` reaches `SSIP`, `STIP`, `SEIP_sw` and `LCOFIP` only. -/
theorem test_mip_writable_bits :
    answers (exec (.csrrw 0#5 0x344#12 5#5) (withX5 0xFFFFFFFFFFFFFFFF#64)) (fun t => t.mip == 0x2222#64) = true := by
  decide +kernel
/-- Bits 9 and 13 in the value written. -/
theorem test_witness_MipReadModifyWriteUsesTheLatch :
    ({ withX5 0x2200#64 with extSeip := true } : State).priv = .M ∧ (5#5 : RegNum) ≠ 0#5 := by decide

/-- The first and the last counter, in U-mode with both enables set. -/
theorem test_witness_UserCountersShadowMachineCounters :
    let s : State := { inMode .U with mcounteren := 0x80000001#32, scounteren := 0x80000001#32 }
    (s.priv ≠ .M → s.mcounteren.getLsbD 0 = true) ∧ (s.priv = .U → s.scounteren.getLsbD 0 = true) ∧
    (s.priv ≠ .M → s.mcounteren.getLsbD 31 = true) ∧ (s.priv = .U → s.scounteren.getLsbD 31 = true) ∧
    (inMode .M).priv = .M := by decide

/-- A write of `minstret`, a write of `mcycle`, and an inhibited counter. -/
theorem test_witness_CycleAndInstretStepUnlessInhibitedOrWritten :
    (csrCheck (withX5 3#64) 0xB02#12 (writesCsr (.csrrw 6#5 0xB02#12 5#5)) = some .minstret ∧
      ∃ t, exec (.csrrw 6#5 0xB02#12 5#5) (withX5 3#64) = .next t) ∧
    (csrCheck (withX5 3#64) 0xB00#12 (writesCsr (.csrrw 6#5 0xB00#12 5#5)) = some .mcycle ∧
      ∃ t, exec (.csrrw 6#5 0xB00#12 5#5) (withX5 3#64) = .next t) ∧
    (let s : State := { withX5 3#64 with mcountinhibit := 5#32 }
     s.mcountinhibit.getLsbD 0 = true ∧ s.mcountinhibit.getLsbD 2 = true ∧
      ∃ t, exec (.csrrs 6#5 0x340#12 0#5) s = .next t) :=
  ⟨⟨by decide +kernel, next_of_answers (by decide)⟩, ⟨by decide +kernel, next_of_answers (by decide)⟩,
    by decide, by decide, next_of_answers (by decide)⟩

/-- An instruction that writes a selector, instructions that trap, a `WFI`, a step with nothing to run, and a waiting hart
that wakes; an inhibited counter counts nothing, and one at its last value wraps when it counts 1. -/
theorem test_witness_EventCounterOverflowSetsOfAndInterrupt :
    (csrCheck (withX5 1#64) 0x323#12 true = some (.mhpmevent 0) ∧
      ∃ t, exec (.csrrw 0#5 0x323#12 5#5) (withX5 1#64) = .next t) ∧
    (∃ t, exec .ecall (inMode .U) = .next t) ∧ (∃ t, exec .sret (inMode .U) = .next t) ∧
    (∃ t, exec .wfi { inMode .M with mie := 0x80#64, mip := 0x80#64 } = .next t) ∧
    ((inMode .M).waiting = false ∧ fetchBytes (platformActs (inMode .M)) = none ∧ ∃ t, step (inMode .M) = .next t) ∧
    (∃ t, step { inMode .M with waiting := true, mie := 0x80#64, mip := 0x80#64 } = .next t) ∧
    eventCount { inMode .M with mcountinhibit := 8#32 } none 0 = 0 ∧
    2 ^ 64 ≤ (0xFFFFFFFFFFFFFFFF#64 : Word).toNat + 1 :=
  ⟨⟨by decide +kernel, next_of_answers (by decide +kernel)⟩, next_of_answers (by decide), next_of_answers (by decide),
    ⟨_, test_wfi_completes⟩, ⟨by decide, by decide, next_of_answers (by decide)⟩, next_of_answers (by decide), rfl,
    by decide⟩
/-- The last implemented counter and the first that is not. -/
theorem test_witness_UnimplementedEventCountersAreReadOnlyZero :
    (inMode .M).priv = .M ∧ (1 : Fin 29).val < (inMode .M).par.nhpm ∧ ¬ (2 : Fin 29).val < (inMode .M).par.nhpm := by
  decide
theorem test_witness_ScountovfShowsOverflowBits :
    let s : State := { inMode .S with
      mhpmevent := Vector.replicate 29 0x8000000000000000#64, mcounteren := 8#32 }
    (scountovfVal s).getLsbD 3 = true ∧ (scountovfVal s).getLsbD 4 = false ∧ (scountovfVal s).getLsbD 2 = false := by
  decide
theorem test_witness_ConstantRegistersReadTheirParameters :
    (inMode .M).priv = .M ∧ (1#5 : RegNum) ≠ 0#5 := by decide
theorem test_witness_DebugRegistersAreInertWithoutTriggers :
    Csr.mcontext ∈ [Csr.tselect, .tdata1, .tdata2, .tdata3, .tinfo, .tcontrol, .mcontext] ∧ (inMode .M).priv = .M ∧
    (inMode .M).par.triggers = .noTriggers := by decide

theorem test_witness_TrapEntersMachineMode :
    delegated (inMode .U) false 8 = false ∧ delegated { inMode .M with mideleg := 2#64 } true 1 = false ∧
    { inMode .U with stvecWritten := false }.mtvecWritten = true ∧ (inMode .U).par.trapValue = .exact ∧
    { vecParams with trapValue := .zero }.trapValue = .zero := by decide
/-- An exception and an interrupt. -/
theorem test_witness_DelegatedTrapEntersSupervisorMode :
    delegated { inMode .U with medeleg := 0x100#64 } false 8 = true ∧
    delegated { inMode .S with mideleg := 2#64, mie := 2#64, mip := 2#64, mstatus := statusOf 2#64 } true 1 = true ∧
    { inMode .U with medeleg := 0x100#64 }.stvecWritten = true := by decide
theorem test_witness_TrapNeverLowersPrivilege :
    ∃ t, takeTrap false 8 0#64 { inMode .U with medeleg := 0x100#64 } = .next t := next_of_answers (by decide)
theorem test_witness_TrapTargetIsBaseOrVectored :
    (0xFFFFFFFFFFFFFFFD#64 : Word).extractLsb' 0 2 = 1#2 ∧ (0x80000100#64 : Word).extractLsb' 0 2 ≠ 1#2 := by decide
theorem test_witness_UnwrittenVectorIsAFault :
    (State.resetWith vecParams).mtvecWritten = false ∧
    delegated (State.resetWith vecParams) false 11 = false ∧
    (let s : State := { State.resetWith vecParams with priv := .U, medeleg := 0x100#64 }
     delegated s false 8 = true ∧ s.stvecWritten = false) := by decide
/-- To M-mode where only `mtvec` has been written, and to S-mode. -/
theorem test_witness_EcallTakesEnvironmentCall :
    (¬ toSupervisor { inMode .S with stvecWritten := false } 9 ∧ (inMode .S).mtvecWritten = true) ∧
    (toSupervisor { inMode .U with medeleg := 0x100#64 } 8 ∧ (inMode .U).stvecWritten = true) := by
  unfold toSupervisor; decide
theorem test_witness_EbreakTakesBreakpoint :
    ¬ toSupervisor (inMode .M) 3 ∧ (inMode .M).mtvecWritten = true := by unfold toSupervisor; decide
theorem test_witness_MretReturnsFromMachineTrap :
    (inMode .M).priv = .M ∧ (inMode .S).priv ≠ .M ∧ ¬ toSupervisor (inMode .S) 2 ∧
    (inMode .S).mtvecWritten = true := by unfold toSupervisor; decide
theorem test_witness_SretReturnsFromSupervisorTrap :
    (inMode .S).priv ≠ .U ∧ (inMode .U).priv = .U ∧ ¬ toSupervisor (inMode .U) 2 ∧
    (inMode .U).mtvecWritten = true := by unfold toSupervisor; decide

/-- Not limited and awake; limited by `TW`; limited by U-mode. -/
theorem test_witness_WfiRetiresWaitsOrTimesOut :
    (let s : State := { inMode .S with mie := 0x80#64, mip := 0x80#64 }
     ¬ ((s.priv ≠ .M ∧ s.mstatus.tw = true) ∨ s.priv = .U) ∧ csrRead s .mie &&& csrRead s .mip ≠ 0#64) ∧
    (let s : State := { inMode .S with mstatus := statusOf 0x200000#64 }
     ((s.priv ≠ .M ∧ s.mstatus.tw = true) ∨ s.priv = .U) ∧ s.mtvecWritten = true) ∧
    (((inMode .U).priv ≠ .M ∧ (inMode .U).mstatus.tw = true) ∨ (inMode .U).priv = .U) := by decide

/-- The clauses: woken with `MIE` = 1, so that the next step takes interrupt 7 (V-WFI-3), an interrupt in a limited wait, a
wait without end (V-WFI-4), a time-out (V-WFI-5), and a wait below `TW_LIMIT`. -/
theorem test_witness_WaitingHartWakesHangsOrTimesOut :
    (let s : State := { inMode .M with waiting := true, mie := 0x80#64, mip := 0x80#64, mstatus := statusOf 8#64 }
     let b : State := platformActs s
     s.waiting = true ∧ csrRead b .mie &&& csrRead b .mip ≠ 0#64 ∧
      ¬ ((s.priv ≠ .M ∧ s.mstatus.tw = true) ∨ s.priv = .U) ∧
      answers (step s) (fun t => pendingInterrupt (platformActs t) == some 7 && mTrap (platformActs t) 7 &&
        t.mtvecWritten) = true) ∧
    (let s : State := { inMode .U with waiting := true, mie := 0x80#64, mip := 0x80#64 }
     let b : State := platformActs s
     csrRead b .mie &&& csrRead b .mip ≠ 0#64 ∧ ((s.priv ≠ .M ∧ s.mstatus.tw = true) ∨ s.priv = .U)) ∧
    (let b : State := platformActs { inMode .M with waiting := true }
     ¬ csrRead b .mie &&& csrRead b .mip ≠ 0#64 ∧ ¬ ((b.priv ≠ .M ∧ b.mstatus.tw = true) ∨ b.priv = .U)) ∧
    (let s : State := { inMode .S with waiting := true, mstatus := statusOf 0x200000#64 }
     let b : State := platformActs s
     ¬ csrRead b .mie &&& csrRead b .mip ≠ 0#64 ∧ ((s.priv ≠ .M ∧ s.mstatus.tw = true) ∨ s.priv = .U) ∧
      s.par.twLimit ≤ s.waitSteps ∧ b.mtvecWritten = true) ∧
    (let s : State := { inMode .U with waiting := true, par := { vecParams with twLimit := 3 }, waitSteps := 2 }
     let b : State := platformActs s
     ¬ csrRead b .mie &&& csrRead b .mip ≠ 0#64 ∧ ((s.priv ≠ .M ∧ s.mstatus.tw = true) ∨ s.priv = .U) ∧
      s.waitSteps < s.par.twLimit) := by decide

theorem test_witness_SupervisorInterruptCondition :
    (csrRead { inMode .S with mideleg := 2#64 } .mideleg).getLsbD 1 = true ∧
    sTrap { inMode .S with mideleg := 2#64 } 1 = false := by decide
theorem test_witness_MachineInterruptCondition :
    mTrap { inMode .S with mip := 0x80#64, mie := 0x80#64 } 7 = true := by decide
/-- An M-mode choice (V-INT-11), an S-mode choice (V-INT-13), and none (V-INT-1). -/
theorem test_witness_PendingInterruptFollowsPriority :
    pendingInterrupt { inMode .M with mstatus := statusOf 8#64, mip := 0x22AA#64, mie := 0x2AAA#64 } = some 3 ∧
    pendingInterrupt { inMode .S with
      mstatus := statusOf 2#64, mip := 0x222#64, mie := 0x222#64, mideleg := 0x222#64 } = some 9 ∧
    pendingInterrupt { inMode .M with mip := 0x80#64, mie := 0x80#64 } = none := by decide
/-- An M-mode trap and an S-mode trap. -/
theorem test_witness_QualifyingInterruptIsTaken :
    (let s : State := { inMode .S with mip := 0x80#64, mie := 0x80#64 }
     s.waiting = false ∧ pendingInterrupt (platformActs s) = some 7 ∧ s.mtvecWritten = true ∧ mTrap (platformActs s) 7 = true) ∧
    (let s : State := { inMode .U with mip := 2#64, mie := 2#64, mideleg := 2#64 }
     s.waiting = false ∧ pendingInterrupt (platformActs s) = some 1 ∧ s.stvecWritten = true ∧ mTrap (platformActs s) 1 = false) := by
  decide

theorem test_witness_PrivilegeChangesOnlyByTrapOrReturn :
    ∃ t, exec .ecall (inMode .U) = .next t ∧ t.priv ≠ (inMode .U).priv :=
  ⟨_, rfl, by decide⟩
/-- In S-mode, `csrrw x0, sscratch, x5` ends in S-mode. -/
theorem test_witness_LowerModesKeepMachineState :
    (fetching .S 0x14029073).priv ≠ .M ∧
    answers (step (fetching .S 0x14029073)) (fun t => t.priv == .S) = true := by decide
theorem test_witness_LowerModesCannotLearnMscratch : (fetching .U 0x00000073).priv ≠ .M := by decide

end Sys2Proof.Tests
end

section
/-! PROOFS. The instruction boundary: what a step fetches and runs when the hart neither waits nor is interrupted
(00_scope.md R12; 20_memory.md R100, R101; 60_exceptions.md R188). -/

namespace Sys2Proof.Machine

/-- The platform's action does not change what the hart fetches. -/
@[simp] theorem fetchBytes_platformActs (s : State) : fetchBytes (platformActs s) = fetchBytes s := by
  simp only [fetchBytes, platformActs_mem, platformActs_pc]

theorem fetchBytes_eq_some {s : State} {b0 b1 b2 b3 : Byte} (h0 : s.mem.read s.pc = some b0)
    (h1 : s.mem.read (s.pc + 1#64) = some b1) (h2 : s.mem.read (s.pc + 2#64) = some b2)
    (h3 : s.mem.read (s.pc + 3#64) = some b3) : fetchBytes s = some [b0, b1, b2, b3] := by
  simp only [fetchBytes, h0, h1, h2, h3]

theorem hartActs_eq_runInstruction {s : State} (hw : s.waiting = false) (hp : pendingInterrupt s = none) :
    hartActs s = runInstruction s := by
  simp [hartActs, hw, hp]

/-- A hart that does not wait and takes no interrupt fetches and runs after the platform's action. -/
theorem step_eq_runInstruction {s : State} (hw : s.waiting = false)
    (hp : pendingInterrupt (platformActs s) = none) : step s = runInstruction (platformActs s) :=
  hartActs_eq_runInstruction ((platformActs_waiting s).trans hw) hp

theorem runInstruction_eq_exec {s : State} {bytes rest : List Byte} {i : Instr}
    (hf : fetchBytes s = some bytes) (hd : decode bytes = .instr i rest) : runInstruction s = exec i s := by
  simp only [runInstruction, hf, hd]

/-- Settles O6: the platform leaves the fetched bytes alone, so the boundary reduces to `exec` of what they decode
to; the platform's frame is `platformActs_frame`. -/
theorem stepRunsDecodedInstruction : Obligations.StepRunsDecodedInstruction := by
  intro s b0 b1 b2 b3 i hw hp h0 h1 h2 h3 hd
  have hf : fetchBytes (platformActs s) = some [b0, b1, b2, b3] :=
    (fetchBytes_platformActs s).trans (fetchBytes_eq_some h0 h1 h2 h3)
  have hstep : step s = exec i (platformActs s) :=
    (step_eq_runInstruction hw hp).trans (runInstruction_eq_exec hf hd)
  exact ⟨hstep, platformActs_frame s⟩

end Sys2Proof.Machine
end

section
/-! PROOFS. A completing CSR instruction: the one state it reaches, and CSRRW in each mode (40_csr_access.md R143 to
R149). -/

namespace Sys2Proof.Machine

/-- The state a CSR instruction that completes from `s` reaches: `w`, the state its write left, with the value read in
`rd`, `pc` moved on, and the counters stepped. -/
def csrDone (s w : State) (wrote : Option Csr) (c : Csr) (rd : RegNum) : State :=
  stepCounters s wrote true { w with x := (w.setX rd (csrRead s c)).x, pc := s.pc + 4#64 }

theorem retire_setX_eq_csrDone (s w : State) (wrote : Option Csr) (c : Csr) (rd : RegNum) :
    retire s wrote { w.setX rd (csrRead s c) with pc := s.pc + 4#64 } = csrDone s w wrote c rd := by
  have h : { w.setX rd (csrRead s c) with pc := s.pc + 4#64 } =
      { w with x := (w.setX rd (csrRead s c)).x, pc := s.pc + 4#64 } := by
    unfold State.setX
    split <;> rfl
  rw [h]
  rfl

/-- `rd` holds the value read, or 0 if it is `x0`. -/
@[simp] theorem csrDone_getX (s w : State) (wrote : Option Csr) (c : Csr) (rd : RegNum) :
    (csrDone s w wrote c rd).getX rd = if rd = 0#5 then 0#64 else csrRead s c :=
  getX_setX_same w rd (csrRead s c)

theorem csrDone_getX_getLsbD (s w : State) (wrote : Option Csr) (c : Csr) (rd : RegNum) (k : Nat) :
    ((csrDone s w wrote c rd).getX rd).getLsbD k = (rd != 0#5 && (csrRead s c).getLsbD k) := by
  rw [csrDone_getX]
  by_cases h : rd = 0#5
  · simp [h]
  · simp [h]

theorem csrDone_x_zero (s w : State) (wrote : Option Csr) (c : Csr) : (csrDone s w wrote c 0#5).x = w.x := rfl

/-- The counters of a completed instruction are those its write left, stepped once. -/
theorem csrDone_steps (s w : State) (wrote : Option Csr) (c : Csr) (rd : RegNum) :
    CountersStep s w wrote true (csrDone s w wrote c rd) :=
  (stepCounters_steps s wrote true _).of_same rfl rfl rfl rfl rfl

/-- A completed instruction changes nothing beside its write but `rd`, `pc` and the counters. -/
theorem csrDone_completes {s w : State} (wrote : Option Csr) (c : Csr) (rd : RegNum) (hx : w.x = s.x)
    (hpc : w.pc = s.pc) : CompletesAccess (.next (csrDone s w wrote c rd)) s c rd w := by
  have h := csr_completes s w wrote rd c hx
  rwa [retire_setX_eq_csrDone, ← hpc] at h

/-- The state after the write an instruction makes, or does not make, to register `c`. -/
def csrWriteIf (i : Instr) (s : State) (c : Csr) : State :=
  if writesCsr i then csrWrite s c (csrWriteValue i s c) else s

/-- What an instruction writes, if it writes, when the register it accesses is `c`. -/
def csrWroteIf (i : Instr) (c : Csr) : Option Csr := if writesCsr i then some c else none

theorem exec_csr_eq_csrDone {i : Instr} {a : CsrAddr} {rd : RegNum} {s : State} {c : Csr}
    (h : csrOperands i = some (a, rd)) (hc : csrCheck s a (writesCsr i) = some c)
    (hr : (writesCsr i && csrWriteRefused c (csrWriteValue i s c)) = false) :
    exec i s = .next (csrDone s (csrWriteIf i s c) (csrWroteIf i c) c rd) := by
  rw [exec_csr_next h hc hr, retire_setX_eq_csrDone]
  rfl

/-- The same for an instruction that writes. -/
theorem exec_csr_writes {i : Instr} {a : CsrAddr} {rd : RegNum} {s : State} {c : Csr}
    (h : csrOperands i = some (a, rd)) (hw : writesCsr i = true) (hc : csrCheck s a true = some c)
    (hr : csrWriteRefused c (csrWriteValue i s c) = false) :
    exec i s = .next (csrDone s (csrWrite s c (csrWriteValue i s c)) (some c) c rd) := by
  rw [exec_csr_eq_csrDone h (hw ▸ hc) (by rw [hw, hr]; rfl), csrWriteIf, csrWroteIf, if_pos hw, if_pos hw]

/-- A CSR instruction whose check passes and that answers a next state has completed. -/
theorem eq_csrDone_of_exec {i : Instr} {a : CsrAddr} {rd : RegNum} {s t : State} {c : Csr}
    (h : csrOperands i = some (a, rd)) (hc : csrCheck s a (writesCsr i) = some c) (ht : exec i s = .next t) :
    t = csrDone s (csrWriteIf i s c) (csrWroteIf i c) c rd := by
  rcases exec_csr_cases h ht with ⟨hn, _⟩ | ⟨c', hc', _, rfl⟩
  · rw [hc] at hn
    cases hn
  · obtain rfl : c = c' := by simpa [hc] using hc'
    exact retire_setX_eq_csrDone s _ _ c rd

/-- A CSR instruction whose check fails raises Illegal instruction (R140). -/
theorem exec_csr_illegal {i : Instr} {a : CsrAddr} {rd : RegNum} {s : State}
    (h : csrOperands i = some (a, rd)) (hc : csrCheck s a (writesCsr i) = none) : exec i s = raiseIllegal i s := by
  rw [exec_csr h, hc]

theorem csrWriteRefused_of_ne {c : Csr} (h : c ≠ .mstatus) (v : Word) : csrWriteRefused c v = false := by
  simp [csrWriteRefused, h]

theorem exec_csrrw_completes {s : State} {a : CsrAddr} {c : Csr} {rs1 : RegNum} (hc : csrCheck s a true = some c)
    (hr : csrWriteRefused c (s.getX rs1) = false) (rd : RegNum) :
    exec (.csrrw rd a rs1) s = .next (csrDone s (csrWrite s c (s.getX rs1)) (some c) c rd) :=
  exec_csr_writes (i := .csrrw rd a rs1) rfl rfl hc hr

/-- CSRRW of a machine register in M-mode completes. -/
theorem exec_csrrw_machine {s : State} (h : s.priv = .M) {c : Csr} (hf : floatAddr c.addr = false)
    (hw : readOnlyAddr c.addr = false) (hm : c ≠ .mstatus) (rd rs1 : RegNum) :
    exec (.csrrw rd c.addr rs1) s = .next (csrDone s (csrWrite s c (s.getX rs1)) (some c) c rd) :=
  exec_csrrw_completes (csrCheck_machine h hf fun _ => hw) (csrWriteRefused_of_ne hm _) rd

/-- CSRRW of a supervisor register above U-mode completes. -/
theorem exec_csrrw_supervisor {s : State} (h : s.priv ≠ .U) {c : Csr} (hf : floatAddr c.addr = false)
    (hp : c.addr.extractLsb' 8 2 = 1#2) (hu : userCounterAddr c.addr = false) (hw : readOnlyAddr c.addr = false)
    (rd rs1 : RegNum) :
    exec (.csrrw rd c.addr rs1) s = .next (csrDone s (csrWrite s c (s.getX rs1)) (some c) c rd) := by
  have hm : c ≠ .mstatus := by
    rintro rfl
    exact absurd hp (by decide)
  exact exec_csrrw_completes (csrCheck_supervisor h hf hp hu fun _ => hw) (csrWriteRefused_of_ne hm _) rd

/-- A pure read of a listed register whose check passes completes (R144 with `rs1` = `x0`). -/
theorem exec_csrrs_zero_completes {s : State} {a : CsrAddr} {c : Csr} (hc : csrCheck s a false = some c) (rd : RegNum) :
    exec (.csrrs rd a 0#5) s = .next (csrDone s s none c rd) :=
  exec_csr_eq_csrDone (i := .csrrs rd a 0#5) rfl hc rfl

/-- What the write of a CSR instruction leaves alone, whatever the register. -/
theorem csrWriteIf_frame (i : Instr) (s : State) (c : Csr) :
    (csrWriteIf i s c).par = s.par ∧ (csrWriteIf i s c).priv = s.priv ∧ (csrWriteIf i s c).pc = s.pc ∧
    (csrWriteIf i s c).x = s.x ∧ (csrWriteIf i s c).mem = s.mem := by
  unfold csrWriteIf
  split
  · obtain ⟨hpar, hpriv, hpc, hx, hmem, -⟩ := csrWrite_frame s c (csrWriteValue i s c)
    exact ⟨hpar, hpriv, hpc, hx, hmem⟩
  · exact ⟨rfl, rfl, rfl, rfl, rfl⟩

end Sys2Proof.Machine
end

section
/-! PROOFS. Every step keeps the legal states (`Legal` of Sys2Proof/Safety.lean): each operation a step is made of keeps
them. -/

namespace Sys2Proof.Machine

/-! ## Masks -/

/-- Bits outside a mask are 0 exactly when every bit set is in the mask. -/
theorem and_not_eq_zero_iff {n : Nat} (v m : BitVec n) :
    v &&& ~~~m = 0#n ↔ ∀ k, v.getLsbD k = true → m.getLsbD k = true := by
  refine ⟨fun h k hv => ?_, fun h => BitVec.eq_of_getLsbD_eq fun k hk => ?_⟩
  · have hk : k < n := BitVec.lt_of_getLsbD hv
    have hbit : (v &&& ~~~m).getLsbD k = false := by simp [h]
    simpa [hv, hk] using hbit
  · cases hv : v.getLsbD k
    · simp [hv]
    · simp [h k hv]

/-- A value under a mask keeps within it. -/
theorem and_and_not_self {n : Nat} (v m : BitVec n) : v &&& m &&& ~~~m = 0#n :=
  (and_not_eq_zero_iff _ m).2 fun k h => by simpa using (by simpa using h : _ ∧ _).2

/-- A value without the bits of a mask has none of them. -/
theorem and_not_and_self {n : Nat} (v m : BitVec n) : v &&& ~~~m &&& m = 0#n := by
  rw [BitVec.and_assoc, BitVec.and_comm (~~~m) m, BitVec.and_not_self]
  exact BitVec.and_zero

theorem sIntMask_subset_intMask (p : Params) (k : Nat) (h : sIntMask.getLsbD k = true) :
    (intMask p).getLsbD k = true := by
  have hk : k < 64 := BitVec.lt_of_getLsbD h
  have hs : ∀ j : Fin 64, sIntMask.getLsbD j = true → (0x2AAA#64).getLsbD j = true := by decide
  simp [intMask, hs ⟨k, hk⟩ h]

/-- Taking bits of another value at places within a mask keeps within the mask. -/
theorem mergeBits_and_not {m r old : Word} (v : Word) (hm : ∀ k, m.getLsbD k = true → r.getLsbD k = true)
    (ho : old &&& ~~~r = 0#64) : mergeBits m old v &&& ~~~r = 0#64 := by
  rw [and_not_eq_zero_iff] at ho ⊢
  intro k h
  rw [mergeBits_getLsbD _ _ _ _ (BitVec.lt_of_getLsbD h)] at h
  split at h
  · exact hm k ‹_›
  · exact ho k h

/-- Setting a bit within a mask keeps within the mask. -/
theorem or_flagAt_and_not {r old : Word} (b : Bool) {j : Nat} (hj : r.getLsbD j = true)
    (ho : old &&& ~~~r = 0#64) : (old ||| flagAt b j) &&& ~~~r = 0#64 := by
  rw [and_not_eq_zero_iff] at ho ⊢
  intro k h
  have hk : k < 64 := BitVec.lt_of_getLsbD h
  rw [BitVec.getLsbD_or, flagAt_getLsbD _ _ _ hk] at h
  by_cases hkj : k = j
  · exact hkj ▸ hj
  · exact ho k (by simpa [hkj] using h)

/-! ## Alignment -/

theorem epcLow_cases (p : Params) : epcLow p = 1#64 ∨ epcLow p = 3#64 := by
  unfold epcLow
  split
  · exact .inl rfl
  · exact .inr rfl

theorem and_one_eq_zero_iff (v : Word) : v &&& 1#64 = 0#64 ↔ v.toNat % 2 = 0 := by
  rw [← BitVec.toNat_inj, BitVec.toNat_and]
  exact iff_of_eq (congrArg (· = 0) (Nat.and_two_pow_sub_one_eq_mod v.toNat 1))

theorem and_three_eq_zero_iff (v : Word) : v &&& 3#64 = 0#64 ↔ v.toNat % 4 = 0 := by
  rw [← BitVec.toNat_inj, BitVec.toNat_and]
  exact iff_of_eq (congrArg (· = 0) (Nat.and_two_pow_sub_one_eq_mod v.toNat 2))

/-- A multiple of 4 is aligned, with and without `HAS_C`. -/
theorem and_epcLow_of_mod_four {v : Word} (p : Params) (h : v.toNat % 4 = 0) : v &&& epcLow p = 0#64 := by
  rcases epcLow_cases p with he | he <;> rw [he]
  · exact (and_one_eq_zero_iff v).2 (by omega)
  · exact (and_three_eq_zero_iff v).2 h

/-- The address of the next instruction is aligned. -/
theorem add_four_and_epcLow {v : Word} {p : Params} (h : v &&& epcLow p = 0#64) :
    (v + 4#64) &&& epcLow p = 0#64 := by
  have hadd : (v + 4#64).toNat = (v.toNat + 4) % 2 ^ 64 := BitVec.toNat_add v 4#64
  rcases epcLow_cases p with he | he <;> rw [he] at h ⊢
  · rw [and_one_eq_zero_iff] at h ⊢
    omega
  · rw [and_three_eq_zero_iff] at h ⊢
    omega

theorem trapTarget_mod_four (tvec : Word) (isIntr : Bool) (code : Nat) :
    (trapTarget tvec isIntr code).toNat % 4 = 0 := by
  have hbase : (tvec &&& ~~~3#64).toNat % 4 = 0 := (and_three_eq_zero_iff _).1 (and_not_and_self tvec 3#64)
  unfold trapTarget
  split
  · rw [BitVec.toNat_add, BitVec.toNat_ofNat]
    omega
  · exact hbase

/-! ## The vectors -/

theorem vectorStore_getLsbD (m old v : Word) {k : Nat} (hk : k < 64) :
    (vectorStore m old v).getLsbD k =
      if 2 ≤ k then (if m.getLsbD k then v.getLsbD k else old.getLsbD k)
      else if v.getLsbD 1 then old.getLsbD k else v.getLsbD k := by
  have h3 : (3#64).getLsbD k = decide (k < 2) := by
    have h : ∀ j : Fin 64, (3#64).getLsbD j = decide (j.val < 2) := by decide
    exact h ⟨k, hk⟩
  simp only [vectorStore, BitVec.getLsbD_or, BitVec.getLsbD_and, BitVec.getLsbD_not, hk, decide_true, Bool.true_and,
    h3, apply_ite (fun w : Word => w.getLsbD k)]
  by_cases h2 : 2 ≤ k
  · have hlt : ¬ k < 2 := by omega
    cases m.getLsbD k <;> simp [h2, hlt]
  · have hlt : k < 2 := by omega
    simp [h2, hlt]

/-- `MODE` stays 0 or 1 (R55). -/
theorem vectorStore_mode {m old v : Word} (h : old.getLsbD 1 = false) : (vectorStore m old v).getLsbD 1 = false := by
  rw [vectorStore_getLsbD _ _ _ (by decide), if_neg (by decide), h]
  cases v.getLsbD 1 <;> rfl

/-! ## Each operation keeps the legal states -/

/-- The platform drives only interrupts that exist. -/
theorem drivenMip_and_not {s : State} (p : PlatformInput) (h : s.mip &&& ~~~intMask s.par = 0#64) :
    drivenMip s p &&& ~~~intMask s.par = 0#64 := by
  refine or_flagAt_and_not p.setSsip (sIntMask_subset_intMask s.par 1 rfl) (mergeBits_and_not _ (fun k hk => ?_) h)
  simp only [BitVec.getLsbD_and, Bool.and_eq_true] at hk
  exact hk.1

theorem platformActs_legal {s : State} (h : Legal s) : Legal (platformActs s) := by
  unfold platformActs
  split
  · exact { h with }
  · exact { h with mip := drivenMip_and_not _ h.mip }

theorem stepCounters_legal {post : State} (pre : State) (w : Option Csr) (b : Bool) (h : Legal post) :
    Legal (stepCounters pre w b post) :=
  { h with mip := or_flagAt_and_not _ (sIntMask_subset_intMask post.par 13 rfl) h.mip }

theorem enterM_legal {s : State} (b : Bool) (k : Nat) (v : Word) (h : Legal s) : Legal (enterM s b k v) :=
  { h with
    pcAligned := and_epcLow_of_mod_four _ (trapTarget_mod_four _ _ _)
    mepc := and_not_and_self _ _ }

theorem enterS_legal {s : State} (b : Bool) (k : Nat) (v : Word) (h : Legal s) : Legal (enterS s b k v) :=
  { h with
    pcAligned := and_epcLow_of_mod_four _ (trapTarget_mod_four _ _ _)
    sepc := and_not_and_self _ _ }

theorem takeTrap_legal {s t : State} {b : Bool} {k : Nat} {info : Word} (h : Legal s)
    (ht : takeTrap b k info s = .next t) : Legal t := by
  rcases takeTrap_cases ht with ⟨_, rfl⟩ | ⟨_, rfl⟩
  · exact stepCounters_legal _ _ _ (enterS_legal _ _ _ h)
  · exact stepCounters_legal _ _ _ (enterM_legal _ _ _ h)

/-- The endianness bits are written only where big-endian is supported (R43). -/
theorem writeMstatus_legal {s : State} (v : Word) (h : Legal s) : Legal (writeMstatus s v) :=
  { h with
    endian := fun hb => by
      have hb' : s.par.bigEndian = false := hb
      simpa [writeMstatus, statusWrite, hb'] using h.endian hb' }

/-- The write rule of every register keeps the legal states (R142). -/
theorem csrWrite_legal {s : State} (c : Csr) (v : Word) (h : Legal s) : Legal (csrWrite s c v) := by
  have hdeleg : ∀ m k, (m &&& midelegVal s).getLsbD k = true → (intMask s.par).getLsbD k = true := by
    intro m k hk
    simp only [midelegVal, BitVec.getLsbD_and, Bool.and_eq_true] at hk
    exact sIntMask_subset_intMask _ _ hk.2.2
  cases c
  case sstatus => exact writeMstatus_legal _ h
  case mstatus => exact writeMstatus_legal _ h
  case sie =>
    exact { h with mie := mergeBits_and_not v (fun k hk => hdeleg (midelegVal s) k (by simpa using hk)) h.mie }
  case sip => exact { h with mip := mergeBits_and_not v (hdeleg sipWritableMask) h.mip }
  case mip => exact { h with mip := mergeBits_and_not v (sIntMask_subset_intMask s.par) h.mip }
  case medeleg => exact { h with medeleg := and_and_not_self _ _ }
  case mideleg => exact { h with mideleg := and_and_not_self _ _ }
  case mie => exact { h with mie := and_and_not_self _ _ }
  case mcountinhibit => exact { h with inhibit := and_and_not_self _ _ }
  case mepc => exact { h with mepc := and_not_and_self _ _ }
  case sepc => exact { h with sepc := and_not_and_self _ _ }
  case mtvec => exact { h with mtvecMode := vectorStore_mode h.mtvecMode }
  case stvec => exact { h with stvecMode := vectorStore_mode h.stvecMode }
  case mhpmevent | mhpmcounter | mtval | stval =>
    simp only [csrWrite]
    split
    · exact { h with }
    · exact h
  all_goals exact { h with }

theorem csrWriteIf_legal {s : State} (i : Instr) (c : Csr) (h : Legal s) : Legal (csrWriteIf i s c) := by
  unfold csrWriteIf
  split
  · exact csrWrite_legal c _ h
  · exact h

theorem wfiDone_legal {s : State} (h : Legal s) : Legal (wfiDone s) :=
  stepCounters_legal _ _ _ { h with pcAligned := add_four_and_epcLow h.pcAligned }

theorem exec_legal {i : Instr} {s t : State} (h : Legal s) (ht : exec i s = .next t) : Legal t := by
  rcases exec_cases ht with ⟨e, info, hr⟩ | ⟨a, rd, c, ho, hc, _, _⟩ | ⟨_, _, rfl⟩ | ⟨_, _, rfl⟩ | ⟨_, rfl | rfl⟩
  case inl => exact takeTrap_legal h hr
  case inr.inl =>
    have hw : Legal (csrWriteIf i s c) := csrWriteIf_legal i c h
    obtain ⟨hpar, -⟩ := csrWriteIf_frame i s c
    have hpc : (s.pc + 4#64) &&& epcLow (csrWriteIf i s c).par = 0#64 := by
      rw [hpar]
      exact add_four_and_epcLow h.pcAligned
    rw [eq_csrDone_of_exec ho hc ht]
    exact stepCounters_legal _ _ _ { hw with pcAligned := hpc }
  · exact stepCounters_legal _ _ _ { h with pcAligned := and_not_and_self _ _ }
  · exact stepCounters_legal _ _ _ { h with pcAligned := and_not_and_self _ _ }
  · exact { h with }
  · exact wfiDone_legal h

/-- Settles O10: the platform's action keeps the legal states, and so does each thing the hart can then do. -/
theorem stepKeepsLegal : Obligations.StepKeepsLegal := by
  intro s t h ht
  have hp : Legal (platformActs s) := platformActs_legal h
  rcases hartActs_cases ht with ⟨b, k, info, htrap⟩ | ⟨_, rfl | rfl⟩ | ⟨_, i, hexec⟩
  · exact takeTrap_legal hp htrap
  · exact wfiDone_legal hp
  · exact { hp with }
  · exact exec_legal hp hexec

end Sys2Proof.Machine
end

section
/-! PROOFS. The word of `mstatus` (10_state.md R39 to R50): the bits of each field, and what the write rule makes of
them. -/

namespace Sys2Proof.Machine

/-! ## Single bits and two-bit fields of a word -/

theorem fieldAt_getLsbD (f : BitVec 2) (k j : Nat) (hj : j < 64) :
    (fieldAt f k).getLsbD j = (decide (k ≤ j) && f.getLsbD (j - k)) := by
  simp only [fieldAt, BitVec.zeroExtend_eq_setWidth, BitVec.getLsbD_shiftLeft, BitVec.getLsbD_setWidth, hj,
    decide_true, Bool.true_and]
  by_cases h : k ≤ j
  · have h1 : ¬ j < k := by omega
    have h2 : j - k < 64 := by omega
    simp [h, h1, h2]
  · have h1 : j < k := by omega
    simp [h, h1]

/-- A flag put back at its own place. -/
theorem flagAt_getLsbD_self (v : Word) (k : Nat) : flagAt (v.getLsbD k) k = v &&& flagAt true k := by
  refine BitVec.eq_of_getLsbD_eq fun j hj => ?_
  rw [flagAt_getLsbD _ _ _ hj, BitVec.getLsbD_and, flagAt_getLsbD _ _ _ hj]
  by_cases h : j = k <;> simp [h]

/-- A field put back at its own place. -/
theorem fieldAt_extractLsb'_self (v : Word) (k : Nat) : fieldAt (v.extractLsb' k 2) k = v &&& fieldAt 3#2 k := by
  refine BitVec.eq_of_getLsbD_eq fun j hj => ?_
  rw [fieldAt_getLsbD _ _ _ hj, BitVec.getLsbD_and, fieldAt_getLsbD _ _ _ hj, BitVec.getLsbD_extractLsb']
  have h3 : ∀ i, (3#2).getLsbD i = decide (i < 2) := by
    intro i
    match i with
    | 0 => rfl
    | 1 => rfl
    | i + 2 => simp
  rw [h3]
  by_cases h : k ≤ j
  · rw [Nat.add_sub_cancel' h, Bool.and_comm (v.getLsbD j), Bool.and_assoc]
  · simp [h]

theorem flagAt_and_of_mem {m : Word} {k : Nat} (b : Bool) (h : m.getLsbD k = true) :
    flagAt b k &&& m = flagAt b k := by
  refine BitVec.eq_of_getLsbD_eq fun j hj => ?_
  rw [BitVec.getLsbD_and, flagAt_getLsbD _ _ _ hj]
  by_cases hjk : j = k <;> simp [hjk, h]

theorem flagAt_and_of_not_mem {m : Word} {k : Nat} (b : Bool) (h : m.getLsbD k = false) :
    flagAt b k &&& m = 0#64 := by
  refine BitVec.eq_of_getLsbD_eq fun j hj => ?_
  rw [BitVec.getLsbD_and, flagAt_getLsbD _ _ _ hj]
  by_cases hjk : j = k <;> simp [hjk, h]

theorem fieldAt_and_field (f : BitVec 2) (k : Nat) : fieldAt f k &&& fieldAt 3#2 k = fieldAt f k := by
  have hf : f.zeroExtend 64 &&& (3#2).zeroExtend 64 = f.zeroExtend 64 := by
    revert f
    decide
  rw [fieldAt, fieldAt, ← BitVec.shiftLeft_and_distrib, hf]

theorem fieldAt_and_of_mem {m : Word} {k : Nat} (f : BitVec 2) (h : fieldAt 3#2 k &&& m = fieldAt 3#2 k) :
    fieldAt f k &&& m = fieldAt f k := by
  rw [← fieldAt_and_field f k, BitVec.and_assoc, h]

theorem fieldAt_and_of_not_mem {m : Word} {k : Nat} (f : BitVec 2) (h : fieldAt 3#2 k &&& m = 0#64) :
    fieldAt f k &&& m = 0#64 := by
  rw [← fieldAt_and_field f k, BitVec.and_assoc, h]
  exact BitVec.and_zero

/-! ## The named bits -/

/-- The named bits of `mstatus` whose value a write takes as it is: all but `MPP`, `SXL` and `UXL`. -/
def statusPlain (bigEndian : Bool) (m : Status) : Word :=
  flagAt m.sie 1 ||| flagAt m.mie 3 ||| flagAt m.spie 5 ||| flagAt (bigEndian && m.ube) 6 |||
  flagAt m.mpie 7 ||| flagAt m.spp 8 ||| fieldAt m.vs 9 ||| fieldAt m.fs 13 ||| flagAt m.mprv 17 |||
  flagAt m.sum 18 ||| flagAt m.mxr 19 ||| flagAt m.tw 21 ||| flagAt (bigEndian && m.sbe) 36 |||
  flagAt (bigEndian && m.mbe) 37

theorem statusNamed_eq (big : Bool) (m : Status) :
    statusNamed big m = statusPlain big m ||| 0xA00000000#64 ||| fieldAt m.mpp.code 11 := by
  have toEnd : ∀ x a b : Word, a ||| x ||| b = a ||| b ||| x := fun x a b => by
    rw [BitVec.or_assoc, BitVec.or_comm x b, BitVec.or_assoc]
  have hxl : (0xA00000000#64 : Word) = fieldAt 2#2 34 ||| fieldAt 2#2 32 := by decide
  rw [hxl, statusNamed, statusPlain, ← BitVec.or_assoc]
  simp only [toEnd (fieldAt 2#2 34)]
  simp only [toEnd (fieldAt 2#2 32)]
  simp only [toEnd (fieldAt m.mpp.code 11)]

/-- The bits a write of `mstatus` stores as they are: the writable ones but `MPP` (R39, R43). -/
def statusPlainMask (bigEndian : Bool) : Word := 0x2E67AA#64 ||| if bigEndian then 0x3000000040#64 else 0#64

theorem statusPlain_statusWrite (big : Bool) (m : Status) (v : Word) :
    statusPlain big (statusWrite big m v) = v &&& statusPlainMask big := by
  have h0 : ∀ k, flagAt false k = v &&& 0#64 := fun k => BitVec.and_zero.symm
  cases big <;>
  · simp only [statusPlain, statusWrite, Bool.true_and, Bool.false_and, if_true, h0, flagAt_getLsbD_self,
      fieldAt_extractLsb'_self, ← BitVec.and_or_distrib_left]
    congr 1

/-- `MPP` keeps its value when the field written names no mode (R42). -/
theorem ofCode_getD_code (c : BitVec 2) (p : Priv) :
    ((Priv.ofCode c).getD p).code = if c = 2#2 then p.code else c := by
  have h : ∀ c : BitVec 2, ((Priv.ofCode c).getD p).code = if c = 2#2 then p.code else c := by
    cases p <;> decide
  exact h c

theorem ofCode_code (p : Priv) : Priv.ofCode p.code = some p := by
  cases p <;> rfl

theorem statusNamed_and_named (big : Bool) (m : Status) :
    statusNamed big m &&& namedStatusMask = statusNamed big m := by
  simp (disch := decide) only [statusNamed, BitVec.and_or_distrib_right, flagAt_and_of_mem, fieldAt_and_of_mem]

/-- The `MPP` field of the word. -/
theorem statusNamed_and_mpp (big : Bool) (m : Status) :
    statusNamed big m &&& 0x1800#64 = fieldAt m.mpp.code 11 := by
  simp (disch := decide) only [statusNamed, BitVec.and_or_distrib_right, flagAt_and_of_not_mem, fieldAt_and_of_mem,
    fieldAt_and_of_not_mem, BitVec.or_zero, BitVec.zero_or]

/-- `SXL` and `UXL` read 2 (R45). -/
theorem statusNamed_and_xl (big : Bool) (m : Status) :
    statusNamed big m &&& 0xF00000000#64 = 0xA00000000#64 := by
  have h : (0xA00000000#64 : Word) = fieldAt 2#2 32 ||| fieldAt 2#2 34 := by decide
  simp (disch := decide) only [statusNamed, BitVec.and_or_distrib_right, flagAt_and_of_not_mem, fieldAt_and_of_mem,
    fieldAt_and_of_not_mem, BitVec.or_zero, BitVec.zero_or, h]

/-- The endianness bits read 0 where big-endian is not supported (R43). -/
theorem statusNamed_and_endian (m : Status) : statusNamed false m &&& 0x3000000040#64 = 0#64 := by
  simp (disch := decide) only [statusNamed, Bool.false_and, BitVec.and_or_distrib_right, flagAt_and_of_not_mem,
    fieldAt_and_of_not_mem, BitVec.or_zero]
  rfl

/-- The named bits after a write of `v`: the plain bits of `v`, `SXL` and `UXL` 2, and `MPP` of `v` unless that is 0b10. -/
theorem statusNamed_statusWrite (big : Bool) (m : Status) (v : Word) :
    statusNamed big (statusWrite big m v) =
      0xA00000000#64 ||| (v &&& statusPlainMask big) |||
        (if v.extractLsb' 11 2 = 2#2 then statusNamed big m else v) &&& 0x1800#64 := by
  have hmpp : fieldAt (statusWrite big m v).mpp.code 11 =
      (if v.extractLsb' 11 2 = 2#2 then statusNamed big m else v) &&& 0x1800#64 := by
    rw [statusWrite, ofCode_getD_code]
    split
    · exact (statusNamed_and_mpp big m).symm
    · exact fieldAt_extractLsb'_self v 11
  rw [statusNamed_eq, statusPlain_statusWrite, hmpp, BitVec.or_comm (v &&& _)]

/-- The unnamed bits are none of the named ones (R50). -/
theorem statusUnnamed_and_named (setting : UnnamedBitsSetting) (draw : Nat) (m : Status) :
    statusUnnamed setting draw m &&& namedStatusMask = 0#64 := by
  cases setting
  case free => exact and_not_and_self _ _
  case standard => exact flagAt_and_of_not_mem _ (by decide)

/-- A read of `mstatus` shows the named bits in their places. -/
theorem mstatusVal_and_named (s : State) :
    mstatusVal s &&& namedStatusMask = statusNamed s.par.bigEndian s.mstatus := by
  rw [mstatusVal, BitVec.and_or_distrib_right, statusNamed_and_named, statusUnnamed_and_named]
  exact BitVec.or_zero

theorem statusNamed_getLsbD (big : Bool) (m : Status) {k : Nat} (hk : k < 64) :
    (statusNamed big m).getLsbD k =
      (m.sie && decide (k = 1) || m.mie && decide (k = 3) || m.spie && decide (k = 5) ||
       big && m.ube && decide (k = 6) || m.mpie && decide (k = 7) || m.spp && decide (k = 8) ||
       decide (9 ≤ k) && m.vs.getLsbD (k - 9) || decide (11 ≤ k) && m.mpp.code.getLsbD (k - 11) ||
       decide (13 ≤ k) && m.fs.getLsbD (k - 13) || m.mprv && decide (k = 17) || m.sum && decide (k = 18) ||
       m.mxr && decide (k = 19) || m.tw && decide (k = 21) || decide (32 ≤ k) && (2#2).getLsbD (k - 32) ||
       decide (34 ≤ k) && (2#2).getLsbD (k - 34) || big && m.sbe && decide (k = 36) ||
       big && m.mbe && decide (k = 37)) := by
  simp only [statusNamed, BitVec.getLsbD_or, flagAt_getLsbD _ _ _ hk, fieldAt_getLsbD _ _ _ hk]

/-- The fields of `mstatus` that `sstatus` does not show, at their places in the word. -/
theorem statusNamed_machine_bits (big : Bool) (m : Status) :
    (statusNamed big m).getLsbD 3 = m.mie ∧ (statusNamed big m).getLsbD 7 = m.mpie ∧
    (statusNamed big m).extractLsb' 11 2 = m.mpp.code ∧ (statusNamed big m).getLsbD 17 = m.mprv ∧
    (statusNamed big m).getLsbD 21 = m.tw ∧ (statusNamed big m).getLsbD 36 = (big && m.sbe) ∧
    (statusNamed big m).getLsbD 37 = (big && m.mbe) := by
  refine ⟨?_, ?_, ?_, ?_, ?_, ?_, ?_⟩
  case refine_3 =>
    refine BitVec.eq_of_getLsbD_eq fun i hi => ?_
    rw [BitVec.getLsbD_extractLsb', statusNamed_getLsbD _ _ (by omega)]
    interval_cases i <;> simp
  all_goals
    rw [statusNamed_getLsbD _ _ (by decide)]
    simp

/-- A write through `sstatus` forms the word it writes from the named bits: outside the mask they stay (R29). -/
theorem statusWrite_sstatus_machine_fields (big : Bool) (m : Status) (v : Word) :
    let m' := statusWrite big m (mergeBits sstatusMask (statusNamed big m) v)
    m'.mie = m.mie ∧ m'.mpie = m.mpie ∧ m'.mpp = m.mpp ∧ m'.mprv = m.mprv ∧ m'.tw = m.tw ∧ m'.sbe = m.sbe ∧
    m'.mbe = m.mbe := by
  obtain ⟨hmie, hmpie, hmpp, hmprv, htw, hsbe, hmbe⟩ := statusNamed_machine_bits big m
  have keeps : ∀ k, k < 64 → sstatusMask.getLsbD k = false →
      (mergeBits sstatusMask (statusNamed big m) v).getLsbD k = (statusNamed big m).getLsbD k := fun k hk hm => by
    rw [mergeBits_getLsbD _ _ _ _ hk, hm]
    rfl
  have keepsMpp : (mergeBits sstatusMask (statusNamed big m) v).extractLsb' 11 2 = m.mpp.code := by
    rw [← hmpp]
    refine BitVec.eq_of_getLsbD_eq fun i hi => ?_
    rw [BitVec.getLsbD_extractLsb', BitVec.getLsbD_extractLsb']
    have hm : sstatusMask.getLsbD (11 + i) = false := by interval_cases i <;> rfl
    rw [keeps _ (by omega) hm]
  refine ⟨?_, ?_, ?_, ?_, ?_, ?_, ?_⟩
  · exact (keeps 3 (by decide) rfl).trans hmie
  · exact (keeps 7 (by decide) rfl).trans hmpie
  · simp only [statusWrite, keepsMpp, ofCode_code, Option.getD_some]
  · exact (keeps 17 (by decide) rfl).trans hmprv
  · exact (keeps 21 (by decide) rfl).trans htw
  · have h := (keeps 36 (by decide) rfl).trans hsbe
    cases big
    · rfl
    · exact h
  · have h := (keeps 37 (by decide) rfl).trans hmbe
    cases big
    · rfl
    · exact h

end Sys2Proof.Machine
end

section
/-! PROOFS. The modes below M cannot change the M-level state (10_state.md R18, 60_exceptions.md R206): each operation such
a step is made of keeps it. -/

namespace Sys2Proof.Machine

/-- `t` has the M-level state of `s`, as `Obligations.LowerModesKeepMachineState` lists it. -/
structure KeepsMachineState (s t : State) : Prop where
  medeleg : t.medeleg = s.medeleg
  mideleg : t.mideleg = s.mideleg
  mtvec : t.mtvec = s.mtvec
  mtvecWritten : t.mtvecWritten = s.mtvecWritten
  mcounteren : t.mcounteren = s.mcounteren
  mcountinhibit : t.mcountinhibit = s.mcountinhibit
  mscratch : t.mscratch = s.mscratch
  mepc : t.mepc = s.mepc
  mcause : t.mcause = s.mcause
  mtval : t.mtval = s.mtval
  mtinst : t.mtinst = s.mtinst
  mtval2 : t.mtval2 = s.mtval2
  tselect : t.tselect = s.tselect
  tdata1 : t.tdata1 = s.tdata1
  tdata2 : t.tdata2 = s.tdata2
  tdata3 : t.tdata3 = s.tdata3
  tinfo : t.tinfo = s.tinfo
  tcontrol : t.tcontrol = s.tcontrol
  mcontext : t.mcontext = s.mcontext
  statusMie : t.mstatus.mie = s.mstatus.mie
  statusMpie : t.mstatus.mpie = s.mstatus.mpie
  statusMpp : t.mstatus.mpp = s.mstatus.mpp
  statusTw : t.mstatus.tw = s.mstatus.tw
  statusMbe : t.mstatus.mbe = s.mstatus.mbe
  statusSbe : t.mstatus.sbe = s.mstatus.sbe
  mie : t.mie &&& ~~~midelegVal s = s.mie &&& ~~~midelegVal s
  mhpmevent : ∀ n : Fin 29, t.mhpmevent[n].extractLsb' 0 63 = s.mhpmevent[n].extractLsb' 0 63
  mip5 : t.mip.getLsbD 5 = s.mip.getLsbD 5
  mip9 : t.mip.getLsbD 9 = s.mip.getLsbD 9

namespace KeepsMachineState

theorem refl (s : State) : KeepsMachineState s s := by
  constructor <;> intros <;> rfl

theorem trans {s t u : State} (h : KeepsMachineState s t) (g : KeepsMachineState t u) : KeepsMachineState s u where
  medeleg := g.medeleg.trans h.medeleg
  mideleg := g.mideleg.trans h.mideleg
  mtvec := g.mtvec.trans h.mtvec
  mtvecWritten := g.mtvecWritten.trans h.mtvecWritten
  mcounteren := g.mcounteren.trans h.mcounteren
  mcountinhibit := g.mcountinhibit.trans h.mcountinhibit
  mscratch := g.mscratch.trans h.mscratch
  mepc := g.mepc.trans h.mepc
  mcause := g.mcause.trans h.mcause
  mtval := g.mtval.trans h.mtval
  mtinst := g.mtinst.trans h.mtinst
  mtval2 := g.mtval2.trans h.mtval2
  tselect := g.tselect.trans h.tselect
  tdata1 := g.tdata1.trans h.tdata1
  tdata2 := g.tdata2.trans h.tdata2
  tdata3 := g.tdata3.trans h.tdata3
  tinfo := g.tinfo.trans h.tinfo
  tcontrol := g.tcontrol.trans h.tcontrol
  mcontext := g.mcontext.trans h.mcontext
  statusMie := g.statusMie.trans h.statusMie
  statusMpie := g.statusMpie.trans h.statusMpie
  statusMpp := g.statusMpp.trans h.statusMpp
  statusTw := g.statusTw.trans h.statusTw
  statusMbe := g.statusMbe.trans h.statusMbe
  statusSbe := g.statusSbe.trans h.statusSbe
  mie := by
    have hv : midelegVal t = midelegVal s := by rw [midelegVal, midelegVal, h.mideleg]
    exact (hv ▸ g.mie).trans h.mie
  mhpmevent n := (g.mhpmevent n).trans (h.mhpmevent n)
  mip5 := g.mip5.trans h.mip5
  mip9 := g.mip9.trans h.mip9

end KeepsMachineState

/-! ## The operations of a step below M-mode -/

/-- The platform drives neither bit 5 nor bit 9 of `mip`. -/
theorem drivenMip_getLsbD {s : State} (p : PlatformInput) {k : Nat} (hk : k = 5 ∨ k = 9) :
    (drivenMip s p).getLsbD k = s.mip.getLsbD k := by
  have h64 : k < 64 := by omega
  have h1 : k ≠ 1 := by omega
  have hm : (~~~0x2222#64).getLsbD k = false := by rcases hk with rfl | rfl <;> rfl
  rw [drivenMip, BitVec.getLsbD_or, mergeBits_getLsbD _ _ _ _ h64, BitVec.getLsbD_and, hm,
    flagAt_getLsbD _ _ _ h64]
  simp [h1]

theorem platformActs_keepsMachineState (s : State) : KeepsMachineState s (platformActs s) := by
  unfold platformActs
  split
  · exact { KeepsMachineState.refl s with }
  · exact { KeepsMachineState.refl s with
      mip5 := drivenMip_getLsbD _ (.inl rfl)
      mip9 := drivenMip_getLsbD _ (.inr rfl) }

/-- Counter stepping touches `OF` of a selector and bit 13 of `mip` only. -/
theorem stepCounters_keepsMachineState (pre : State) (w : Option Csr) (b : Bool) (s : State) :
    KeepsMachineState s (stepCounters pre w b s) := by
  have hmip : ∀ k, k ≠ 13 → k < 64 → (stepCounters pre w b s).mip.getLsbD k = s.mip.getLsbD k := by
    intro k hk h64
    rw [stepCounters_mip, BitVec.getLsbD_or, flagAt_getLsbD _ _ _ h64]
    simp [hk]
  refine { KeepsMachineState.refl s with
    mhpmevent := fun n => ?_
    mip5 := hmip 5 (by decide) (by decide)
    mip9 := hmip 9 (by decide) (by decide) }
  rw [stepCounters_mhpmevent]
  ext k hk
  have hk64 : k < 64 := by omega
  have hne : k ≠ 63 := by omega
  simp [flagAt_getLsbD _ _ _ hk64, hne]

theorem KeepsMachineState.stepCounters {s w : State} (h : KeepsMachineState s w) (pre : State) (o : Option Csr)
    (b : Bool) : KeepsMachineState s (stepCounters pre o b w) :=
  h.trans (stepCounters_keepsMachineState pre o b w)

theorem enterS_keepsMachineState (s : State) (b : Bool) (k : Nat) (v : Word) :
    KeepsMachineState s (enterS s b k v) := { KeepsMachineState.refl s with }

/-- A trap that does not enter M-mode keeps the M-level state (R193). -/
theorem takeTrap_keepsMachineState {s t : State} {b : Bool} {k : Nat} {info : Word} (ht : t.priv ≠ .M)
    (h : takeTrap b k info s = .next t) : KeepsMachineState s t := by
  rcases takeTrap_cases h with ⟨_, rfl⟩ | ⟨_, rfl⟩
  · exact (enterS_keepsMachineState s b k _).stepCounters _ _ _
  · exact absurd rfl ht

/-- A write of `sstatus` keeps the fields of `mstatus` that `sstatus` does not show (R29). -/
theorem writeSstatus_keepsMachineState (s : State) (v : Word) : KeepsMachineState s (csrWrite s .sstatus v) := by
  obtain ⟨hmie, hmpie, hmpp, -, htw, hsbe, hmbe⟩ :=
    statusWrite_sstatus_machine_fields s.par.bigEndian s.mstatus v
  exact { KeepsMachineState.refl s with
    statusMie := hmie
    statusMpie := hmpie
    statusMpp := hmpp
    statusTw := htw
    statusSbe := hsbe
    statusMbe := hmbe }

/-- A write of `sie` reaches the delegated bits of `mie` only (R30). -/
theorem writeSie_keepsMachineState (s : State) (v : Word) : KeepsMachineState s (csrWrite s .sie v) :=
  { KeepsMachineState.refl s with
    mie := BitVec.eq_of_getLsbD_eq fun k hk => by
      have h := mergeBits_getLsbD (midelegVal s) s.mie v k hk
      rw [BitVec.getLsbD_and, BitVec.getLsbD_and, BitVec.getLsbD_not]
      change ((mergeBits (midelegVal s) s.mie v).getLsbD k && _) = _
      rw [h]
      cases (midelegVal s).getLsbD k <;> simp }

/-- A write of `sip` reaches bits 1 and 13 of `mip` only (R37). -/
theorem writeSip_keepsMachineState (s : State) (v : Word) : KeepsMachineState s (csrWrite s .sip v) := by
  have hmip : ∀ k, k < 64 → sipWritableMask.getLsbD k = false →
      (csrWrite s .sip v).mip.getLsbD k = s.mip.getLsbD k := fun k hk hm => by
    refine (mergeBits_getLsbD _ s.mip v k hk).trans ?_
    rw [BitVec.getLsbD_and, hm]
    rfl
  exact { KeepsMachineState.refl s with
    mip5 := hmip 5 (by decide) rfl
    mip9 := hmip 9 (by decide) rfl }

/-- A register that a mode below M may access: writing it keeps the M-level state (R18). -/
theorem csrWrite_keepsMachineState (s : State) {c : Csr} (v : Word) (hc : c.addr.extractLsb' 8 2 ≠ 3#2) :
    KeepsMachineState s (csrWrite s c v) := by
  have hevent : ∀ n : Fin 29, (Csr.mhpmevent n).addr.extractLsb' 8 2 = 3#2 := by decide
  have hcounter : ∀ n : Fin 29, (Csr.mhpmcounter n).addr.extractLsb' 8 2 = 3#2 := by decide
  cases c
  case sstatus => exact writeSstatus_keepsMachineState s v
  case sie => exact writeSie_keepsMachineState s v
  case sip => exact writeSip_keepsMachineState s v
  case mhpmevent n => exact absurd (hevent n) hc
  case mhpmcounter n => exact absurd (hcounter n) hc
  case stval =>
    simp only [csrWrite]
    split
    · exact { KeepsMachineState.refl s with }
    · exact KeepsMachineState.refl s
  case fflags | frm | fcsr | cycle | time | instret | hpmcounter | stvec | scounteren | sscratch | sepc | scause |
      scountovf => exact { KeepsMachineState.refl s with }
  all_goals exact absurd rfl hc

/-- Below M-mode the check lets no M-mode register through (R18, R140). -/
theorem csrCheck_below_machine {s : State} {a : CsrAddr} {w : Bool} {c : Csr} (hs : s.priv ≠ .M)
    (h : csrCheck s a w = some c) : c.addr.extractLsb' 8 2 ≠ 3#2 := by
  obtain ⟨ha, hp, -⟩ := csrCheck_some h
  rw [Csr.addr_of_ofAddr ha]
  intro h3
  rw [privilegeAllows, h3] at hp
  cases hq : s.priv
  case M => exact hs hq
  all_goals
    rw [hq] at hp
    exact absurd hp (by decide)

theorem csrDone_keepsMachineState {s w : State} (wrote : Option Csr) (c : Csr) (rd : RegNum)
    (h : KeepsMachineState s w) : KeepsMachineState s (csrDone s w wrote c rd) := by
  refine KeepsMachineState.stepCounters ?_ _ _ _
  exact { h with }

/-- An instruction that starts and ends below M-mode keeps the M-level state. -/
theorem exec_keepsMachineState {i : Instr} {s t : State} (hs : s.priv ≠ .M) (ht : t.priv ≠ .M)
    (h : exec i s = .next t) : KeepsMachineState s t := by
  rcases exec_cases h with ⟨e, info, hr⟩ | ⟨a, rd, c, ho, hc, _, _⟩ | ⟨_, hM, _⟩ | ⟨_, _, rfl⟩ | ⟨_, rfl | rfl⟩
  case inl => exact takeTrap_keepsMachineState ht hr
  case inr.inl =>
    rw [eq_csrDone_of_exec ho hc h]
    refine csrDone_keepsMachineState _ c rd ?_
    unfold csrWriteIf
    split
    · exact csrWrite_keepsMachineState s _ (csrCheck_below_machine hs hc)
    · exact KeepsMachineState.refl s
  · exact absurd hM hs
  · refine KeepsMachineState.stepCounters ?_ _ _ _
    exact { KeepsMachineState.refl s with }
  · exact { KeepsMachineState.refl s with }
  · refine KeepsMachineState.stepCounters ?_ _ _ _
    exact { KeepsMachineState.refl s with }

theorem hartActs_keepsMachineState {s t : State} (hs : s.priv ≠ .M) (ht : t.priv ≠ .M)
    (h : hartActs s = .next t) : KeepsMachineState s t := by
  rcases hartActs_cases h with ⟨b, k, info, htrap⟩ | ⟨_, rfl | rfl⟩ | ⟨_, i, hexec⟩
  · exact takeTrap_keepsMachineState ht htrap
  · refine KeepsMachineState.stepCounters ?_ _ _ _
    exact { KeepsMachineState.refl s with }
  · exact { KeepsMachineState.refl s with }
  · exact exec_keepsMachineState hs ht hexec

/-- Settles O57: the platform's action keeps the M-level state, and so does all the hart can do below M-mode. -/
theorem lowerModesKeepMachineState : Obligations.LowerModesKeepMachineState := by
  intro s t hs ht h
  have hp : (platformActs s).priv ≠ .M := by rwa [platformActs_priv]
  have k : KeepsMachineState s t :=
    (platformActs_keepsMachineState s).trans (hartActs_keepsMachineState hp ht h)
  exact ⟨k.medeleg, k.mideleg, k.mtvec, k.mcounteren, k.mcountinhibit, k.mscratch, k.mepc, k.mcause, k.mtval, k.mtinst,
    k.mtval2, k.tselect, k.tdata1, k.tdata2, k.tdata3, k.tinfo, k.tcontrol, k.mcontext, k.statusMie, k.statusMpie,
    k.statusMpp, k.statusTw, k.statusMbe, k.statusSbe, k.mie, k.mhpmevent, k.mip5, k.mip9, k.mtvecWritten⟩

end Sys2Proof.Machine
end

section
/-! PROOFS. The modes below M cannot learn `mscratch` (10_state.md R18): a change of it commutes with each operation of a
step that starts below M-mode. -/

namespace Sys2Proof.Machine

/-- The state with another value in `mscratch`. -/
def withMscratch (v : Word) (s : State) : State := { s with mscratch := v }

/-- What is done to the next state of an outcome that has one. -/
def mapNext (f : State → State) : Result → Result
  | .next t => .next (f t)
  | .fault e => .fault e
  | .refused e => .refused e

theorem mapNext_ite (f : State → State) (p : Prop) [Decidable p] (q r : Result) :
    mapNext f (if p then q else r) = if p then mapNext f q else mapNext f r :=
  apply_ite (mapNext f) p q r

/-! ## What the step looks at does not depend on `mscratch` -/

theorem platformActs_withMscratch (v : Word) (s : State) :
    platformActs (withMscratch v s) = withMscratch v (platformActs s) := by
  unfold platformActs withMscratch
  cases s.platform <;> rfl

theorem csrRead_withMscratch (v : Word) (s : State) {c : Csr} (hc : c ≠ .mscratch) :
    csrRead (withMscratch v s) c = csrRead s c := by
  cases c
  case mscratch => exact absurd rfl hc
  all_goals rfl

theorem csrWrite_withMscratch (v : Word) (s : State) {c : Csr} (hc : c ≠ .mscratch) (u : Word) :
    csrWrite (withMscratch v s) c u = withMscratch v (csrWrite s c u) := by
  cases c
  case mscratch => exact absurd rfl hc
  case stval | mtval | mhpmevent | mhpmcounter =>
    rw [csrWrite, csrWrite, apply_ite (withMscratch v)]
    rfl
  all_goals rfl

theorem csrWriteValue_withMscratch (i : Instr) (v : Word) (s : State) {c : Csr} (hc : c ≠ .mscratch) :
    csrWriteValue i (withMscratch v s) c = csrWriteValue i s c := by
  have hb : csrRmwBase (withMscratch v s) c = csrRmwBase s c := by
    cases c
    case mscratch => exact absurd rfl hc
    all_goals rfl
  cases i
  case csrrs | csrrsi => exact congrArg (· ||| _) hb
  case csrrc | csrrci => exact congrArg (· &&& _) hb
  all_goals rfl

/-! ## The operations of a step -/

theorem takeTrap_withMscratch (b : Bool) (k : Nat) (info v : Word) (s : State) :
    takeTrap b k info (withMscratch v s) = mapNext (withMscratch v) (takeTrap b k info s) := by
  simp only [takeTrap, mapNext_ite]
  rfl

theorem csrWriteIf_withMscratch (i : Instr) (v : Word) (s : State) {c : Csr} (hc : c ≠ .mscratch) :
    csrWriteIf i (withMscratch v s) c = withMscratch v (csrWriteIf i s c) := by
  simp only [csrWriteIf, csrWriteValue_withMscratch i v s hc, csrWrite_withMscratch v s hc]
  exact (apply_ite (withMscratch v) _ _ _).symm

theorem csrDone_withMscratch (v : Word) (s w : State) (o : Option Csr) {c : Csr} (hc : c ≠ .mscratch) (rd : RegNum) :
    csrDone (withMscratch v s) (withMscratch v w) o c rd = withMscratch v (csrDone s w o c rd) := by
  have hx : ∀ u, ((withMscratch v w).setX rd u).x = (w.setX rd u).x := fun u => by
    unfold State.setX
    split <;> rfl
  rw [csrDone, csrRead_withMscratch v s hc, hx]
  rfl

/-- A CSR instruction below M-mode accesses another register than `mscratch`. -/
theorem exec_csr_withMscratch {i : Instr} {a : CsrAddr} {rd : RegNum} (h : csrOperands i = some (a, rd)) (v : Word)
    {s : State} (hs : s.priv ≠ .M) :
    exec i (withMscratch v s) = mapNext (withMscratch v) (exec i s) := by
  have hck : csrCheck (withMscratch v s) a (writesCsr i) = csrCheck s a (writesCsr i) := rfl
  cases hc : csrCheck s a (writesCsr i) with
  | none =>
    rw [exec_csr_illegal h hc, exec_csr_illegal h (hck.trans hc)]
    exact takeTrap_withMscratch _ _ _ v s
  | some c =>
    have hm : c ≠ .mscratch := by
      rintro rfl
      exact csrCheck_below_machine hs hc rfl
    have hv := csrWriteValue_withMscratch i v s hm
    cases hr : writesCsr i && csrWriteRefused c (csrWriteValue i s c) with
    | true =>
      rw [exec_csr h, exec_csr h, hck, hc]
      simp only [hv, hr, if_true]
      rfl
    | false =>
      rw [exec_csr_eq_csrDone h hc hr, exec_csr_eq_csrDone h (hck.trans hc) (by rw [hv, hr]),
        csrWriteIf_withMscratch i v s hm, csrDone_withMscratch v s _ _ hm]
      rfl

theorem exec_withMscratch (i : Instr) (v : Word) {s : State} (hs : s.priv ≠ .M) :
    exec i (withMscratch v s) = mapNext (withMscratch v) (exec i s) := by
  cases i
  case ecall => exact takeTrap_withMscratch _ _ _ v s
  case ebreak => exact takeTrap_withMscratch _ _ _ v s
  case mret =>
    have hraise : ∀ u : State, u.priv ≠ .M → exec .mret u = raiseIllegal .mret u := fun u hu => if_neg hu
    rw [hraise s hs, hraise (withMscratch v s) hs]
    exact takeTrap_withMscratch _ _ _ v s
  case sret =>
    simp only [exec, execSret, mapNext_ite, raiseIllegal, raise, ← takeTrap_withMscratch]
    rfl
  case wfi =>
    simp only [exec, execWfi, mapNext_ite, raiseIllegal, raise, ← takeTrap_withMscratch]
    simp only [mapNext, apply_ite (withMscratch v)]
    rfl
  all_goals exact exec_csr_withMscratch rfl v hs

theorem waitStep_withMscratch (v : Word) (s : State) :
    waitStep (withMscratch v s) = mapNext (withMscratch v) (waitStep s) := by
  simp only [waitStep, mapNext_ite, raiseIllegal, raise, ← takeTrap_withMscratch]
  rfl

theorem runInstruction_withMscratch (v : Word) {s : State} (hs : s.priv ≠ .M) :
    runInstruction (withMscratch v s) = mapNext (withMscratch v) (runInstruction s) := by
  have hf : fetchBytes (withMscratch v s) = fetchBytes s := rfl
  unfold runInstruction
  rw [hf]
  split
  · exact takeTrap_withMscratch _ _ _ v s
  · split
    · exact exec_withMscratch _ v hs
    · simp only [mapNext_ite, raise, ← takeTrap_withMscratch]
      rfl
    · rfl
    · exact takeTrap_withMscratch _ _ _ v s

theorem hartActs_withMscratch (v : Word) {s : State} (hs : s.priv ≠ .M) :
    hartActs (withMscratch v s) = mapNext (withMscratch v) (hartActs s) := by
  have hw : (withMscratch v s).waiting = s.waiting := rfl
  have hp : pendingInterrupt (withMscratch v s) = pendingInterrupt s := rfl
  rw [hartActs, hartActs, hw, hp, mapNext_ite]
  congr 1
  · exact waitStep_withMscratch v s
  · split
    · exact takeTrap_withMscratch _ _ _ v s
    · exact runInstruction_withMscratch v hs

/-- Settles O58: below M-mode a change of `mscratch` passes through the platform's action and through all the hart
does. -/
theorem lowerModesCannotLearnMscratch : Obligations.LowerModesCannotLearnMscratch := by
  intro s v hs
  have hp : (platformActs s).priv ≠ .M := by rwa [platformActs_priv]
  have h : step (withMscratch v s) = mapNext (withMscratch v) (step s) := by
    rw [step, platformActs_withMscratch, hartActs_withMscratch v hp]
    rfl
  exact h

end Sys2Proof.Machine
end

section
/-! PROOFS. The six CSR instructions: read-only addresses, the refusal of R50, the frame, `x0`, the counters, and the
mode (40_csr_access.md, 10_state.md R13, R15, R17, R50, R83). -/

namespace Sys2Proof.Machine

/-- A failed check takes Illegal instruction with the word as informative value (R140, R194). -/
theorem exec_csr_takes_illegal {i : Instr} {a : CsrAddr} {rd : RegNum} {s : State}
    (h : csrOperands i = some (a, rd)) (hc : csrCheck s a (writesCsr i) = none) :
    TakesException (exec i s) 2 ((encode i).zeroExtend 64) s := by
  rw [exec_csr_illegal h hc]
  exact raise_takes s .illegalInstruction _

/-- A write to a read-only address fails the check in every mode (R17). -/
theorem csrCheck_readOnly_write {a : CsrAddr} (s : State) (h : a.extractLsb' 10 2 = 3#2) :
    csrCheck s a true = none := by
  simp [csrCheck, readOnlyAddr, h]

/-- The floating-point registers are not at read-only addresses. -/
theorem floatAddr_of_readOnly {a : CsrAddr} (h : a.extractLsb' 10 2 = 3#2) : floatAddr a = false := by
  have hne : ∀ b : CsrAddr, b.extractLsb' 10 2 ≠ 3#2 → (a == b) = false := fun b hb => by
    rw [beq_eq_false_iff_ne]
    rintro rfl
    exact hb h
  simp only [floatAddr, hne 0x001#12 (by decide), hne 0x002#12 (by decide), hne 0x003#12 (by decide), Bool.or_false]

/-- Settles O14: at a read-only address the check fails for a write and passes for a read in M-mode. -/
theorem readOnlyAddressesRejectWrites : Obligations.ReadOnlyAddressesRejectWrites := by
  intro i s a rd ho ha
  refine ⟨fun hw => ?_, fun c hw hM hca => ?_⟩
  · exact exec_csr_takes_illegal ho (hw ▸ csrCheck_readOnly_write s ha)
  · subst hca
    have hc : csrCheck s c.addr (writesCsr i) = some c := by
      rw [hw]
      exact csrCheck_machine hM (floatAddr_of_readOnly ha) nofun
    rw [exec_csr_eq_csrDone ho hc (by rw [hw]; rfl), csrWriteIf, hw]
    exact csrDone_completes _ c rd rfl rfl

/-! ## The refusal of R50 -/

/-- `mstatus` passes the check in M-mode. -/
theorem csrCheck_mstatus {s : State} (h : s.priv = .M) (w : Bool) : csrCheck s 0x300#12 w = some .mstatus :=
  csrCheck_machine h (c := .mstatus) rfl fun _ => rfl

/-- A CSR instruction on `mstatus` in M-mode is refused exactly when it writes a value with bit 20 or 22. -/
theorem exec_mstatus_refused_iff {i : Instr} {rd : RegNum} {s : State} (ho : csrOperands i = some (0x300#12, rd))
    (h : s.priv = .M) :
    exec i s = .refused .statusTrapControl ↔
      writesCsr i = true ∧ csrWriteValue i s .mstatus &&& 0x500000#64 ≠ 0#64 := by
  have hr : (writesCsr i && csrWriteRefused .mstatus (csrWriteValue i s .mstatus)) = true ↔
      writesCsr i = true ∧ csrWriteValue i s .mstatus &&& 0x500000#64 ≠ 0#64 := by
    simp [csrWriteRefused, statusTrapMask]
  rw [← hr]
  cases hb : writesCsr i && csrWriteRefused .mstatus (csrWriteValue i s .mstatus) with
  | false =>
    rw [exec_csr_eq_csrDone ho (csrCheck_mstatus h _) hb]
    exact iff_of_false nofun nofun
  | true =>
    rw [exec_csr ho, csrCheck_mstatus h]
    exact iff_of_true (if_pos hb) rfl

/-- Settles O21: in each form the value written is the one the statement names; an immediate reaches neither bit. -/
theorem settingTrapControlIsRefused : Obligations.SettingTrapControlIsRefused := by
  intro s rd rs1 uimm h bits old
  have himm : ∀ u : BitVec 5, u.zeroExtend 64 &&& 0x500000#64 = 0#64 := by decide
  have himmClear : ∀ u : BitVec 5, ~~~u.zeroExtend 64 &&& 0x500000#64 = 0x500000#64 := by decide
  have hset : (old ||| uimm.zeroExtend 64) &&& bits = old &&& bits := by
    rw [BitVec.and_or_distrib_right, himm]
    exact BitVec.or_zero
  have hclear : old &&& ~~~uimm.zeroExtend 64 &&& bits = old &&& bits := by
    rw [BitVec.and_assoc, himmClear]
  refine ⟨?_, ?_, ?_, ?_, ?_, ?_⟩
  · exact (exec_mstatus_refused_iff (i := .csrrw rd 0x300#12 rs1) rfl h).trans (and_iff_right rfl)
  · exact (exec_mstatus_refused_iff (i := .csrrs rd 0x300#12 rs1) rfl h).trans (and_congr_left' bne_iff_ne)
  · exact (exec_mstatus_refused_iff (i := .csrrc rd 0x300#12 rs1) rfl h).trans (and_congr_left' bne_iff_ne)
  · intro hx
    exact ((exec_mstatus_refused_iff (i := .csrrwi rd 0x300#12 uimm) rfl h).1 hx).2 (himm uimm)
  · rw [← hset]
    exact (exec_mstatus_refused_iff (i := .csrrsi rd 0x300#12 uimm) rfl h).trans (and_congr_left' bne_iff_ne)
  · rw [← hclear]
    exact (exec_mstatus_refused_iff (i := .csrrci rd 0x300#12 uimm) rfl h).trans (and_congr_left' bne_iff_ne)

/-! ## The frame -/

/-- Settles O22: the completed state is `csrDone` over the write, whose storage `withCsrOf` restores. -/
theorem csrInstructionsFrame : Obligations.CsrInstructionsFrame := by
  intro i s t a rd c ho hc ht
  obtain rfl := eq_csrDone_of_exec ho hc ht
  obtain ⟨-, -, hpc, hx, hmem⟩ := csrWriteIf_frame i s c
  obtain ⟨_, ht', -, hregs, -, hframe⟩ := csrDone_completes (csrWroteIf i c) c rd hx hpc
  cases ht'
  have hsteps := csrDone_steps s (csrWriteIf i s c) (csrWroteIf i c) c rd
  refine ⟨hregs, fun b => congrArg (Memory.read · b) hmem, ?_, ?_⟩
  · rw [hframe, csrWriteIf]
    split
    · exact withCsrOf_csrWrite s c _
    · exact withCountersOf_self s
  · split
    case isTrue hw => rwa [csrWriteIf, csrWroteIf, if_pos hw, if_pos hw] at hsteps ⊢
    case isFalse hw => rwa [csrWriteIf, csrWroteIf, if_neg hw, if_neg hw] at hsteps ⊢

/-- Taking a trap leaves the general registers alone (R191). -/
theorem takeTrap_x {s t : State} {b : Bool} {k : Nat} {info : Word} (h : takeTrap b k info s = .next t) : t.x = s.x := by
  rcases takeTrap_cases h with ⟨_, rfl⟩ | ⟨_, rfl⟩ <;> rfl

/-- Settles O23: with `rd` = `x0` neither a completed instruction nor a trap changes a general register. -/
theorem registerZeroDiscardsWrites : Obligations.RegisterZeroDiscardsWrites := by
  intro i s t a ho ht
  refine ⟨?_, getX_zero t⟩
  rcases exec_csr_cases ho ht with ⟨_, htrap⟩ | ⟨c, hc, _, _⟩
  · exact takeTrap_x htrap
  · obtain ⟨-, -, -, hx, -⟩ := csrWriteIf_frame i s c
    rw [eq_csrDone_of_exec ho hc ht, csrDone_x_zero, hx]

/-! ## The mode -/

/-- Settles O56: of what an instruction can do, only a trap entry and the two returns set the mode. -/
theorem privilegeChangesOnlyByTrapOrReturn : Obligations.PrivilegeChangesOnlyByTrapOrReturn := by
  intro i s t ht hne
  rcases exec_cases ht with ⟨e, info, hr⟩ | ⟨a, rd, c, ho, hc, _, _⟩ | ⟨hi, _⟩ | ⟨hi, _⟩ | ⟨_, rfl | rfl⟩
  case inl =>
    rcases takeTrap_enters hr with ⟨_, hS⟩ | ⟨_, hM⟩
    · exact .inr (.inr (.inr ⟨_, _, hS⟩))
    · exact .inr (.inr (.inl ⟨_, _, hM⟩))
  case inr.inl =>
    obtain ⟨-, hpriv, -⟩ := csrWriteIf_frame i s c
    rw [eq_csrDone_of_exec ho hc ht] at hne
    exact absurd hpriv hne
  · exact .inl hi
  · exact .inr (.inl hi)
  · exact absurd rfl hne
  · exact absurd rfl hne

end Sys2Proof.Machine
end

section
/-! PROOFS. Counter stepping over instructions and steps (10_state.md R75 to R77, R83): once for each instruction that
completes and each trap, never while a `WFI` waits. -/

namespace Sys2Proof.Machine

/-! ## Over a CSR instruction -/

theorem csrWrite_mcycle (s : State) (c : Csr) (v : Word) :
    (csrWrite s c v).mcycle = if c = .mcycle then v else s.mcycle := by
  cases c
  case mtval | stval | mhpmevent | mhpmcounter =>
    simp only [csrWrite]
    split <;> rfl
  all_goals rfl

theorem csrWrite_minstret (s : State) (c : Csr) (v : Word) :
    (csrWrite s c v).minstret = if c = .minstret then v else s.minstret := by
  cases c
  case mtval | stval | mhpmevent | mhpmcounter =>
    simp only [csrWrite]
    split <;> rfl
  all_goals rfl

theorem csrWriteIf_mcycle (i : Instr) (s : State) (c : Csr) :
    (csrWriteIf i s c).mcycle = if writesCsr i = true ∧ c = .mcycle then csrWriteValue i s c else s.mcycle := by
  unfold csrWriteIf
  split <;> simp [csrWrite_mcycle, *]

theorem csrWriteIf_minstret (i : Instr) (s : State) (c : Csr) :
    (csrWriteIf i s c).minstret =
      if writesCsr i = true ∧ c = .minstret then csrWriteValue i s c else s.minstret := by
  unfold csrWriteIf
  split <;> simp [csrWrite_minstret, *]

theorem csrWroteIf_eq_some {i : Instr} {c d : Csr} : csrWroteIf i c = some d ↔ writesCsr i = true ∧ c = d := by
  unfold csrWroteIf
  split <;> simp [*]

/-- Settles O35: `csrDone` steps the two counters from what the write left in them. -/
theorem cycleAndInstretStepUnlessInhibitedOrWritten : Obligations.CycleAndInstretStepUnlessInhibitedOrWritten := by
  intro i s t a rd c ho hc ht
  obtain rfl := eq_csrDone_of_exec ho hc ht
  obtain ⟨hcycle, hinstret, -⟩ := csrDone_steps s (csrWriteIf i s c) (csrWroteIf i c) c rd
  simp only [csrWroteIf_eq_some, csrWriteIf_minstret] at hinstret
  simp only [csrWroteIf_eq_some, csrWriteIf_mcycle] at hcycle
  rw [hinstret, hcycle]
  refine ⟨?_, ?_⟩
  · by_cases hw : writesCsr i = true ∧ c = .minstret
    · simp only [hw, and_self, or_true, if_true]
    · simp only [hw, or_false, if_false, Bool.true_eq_false, false_or]
  · by_cases hw : writesCsr i = true ∧ c = .mcycle
    · simp only [hw, and_self, or_true, if_true]
    · simp only [hw, or_false, if_false]

/-- The state after an instruction's own write, for a CSR instruction whose check passes. -/
theorem afterWrite_eq_csrWriteIf {i : Instr} {a : CsrAddr} {rd : RegNum} {s : State} {c : Csr}
    (ho : csrOperands i = some (a, rd)) (hc : csrCheck s a (writesCsr i) = some c) :
    csrWritten i s = csrWroteIf i c ∧ afterWrite i s = csrWriteIf i s c := by
  have hw : csrWritten i s = csrWroteIf i c := by
    rw [csrWritten, ho, csrWroteIf]
    cases h : writesCsr i
    · rfl
    · rw [h] at hc
      exact hc
  refine ⟨hw, ?_⟩
  rw [afterWrite, hw, csrWroteIf, csrWriteIf]
  cases writesCsr i <;> rfl

/-! ## Over a trap -/

/-- A trap steps the counters and retires nothing (R83, R191). -/
theorem takeTrap_steps {s t : State} {b : Bool} {k : Nat} {info : Word} (h : takeTrap b k info s = .next t) :
    CountersStep s s none false t := by
  rcases takeTrap_cases h with ⟨_, rfl⟩ | ⟨_, rfl⟩
  · exact (stepCounters_steps s none false _).of_same rfl rfl rfl rfl rfl
  · exact (stepCounters_steps s none false _).of_same rfl rfl rfl rfl rfl

/-- The instructions that trap: the two calls, a return below its mode, a CSR instruction whose check fails. -/
def Traps (i : Instr) (s : State) : Prop :=
  i = .ecall ∨ i = .ebreak ∨ (i = .mret ∧ s.priv ≠ .M) ∨ (i = .sret ∧ s.priv = .U) ∨
    ∃ a rd, csrOperands i = some (a, rd) ∧ csrCheck s a (writesCsr i) = none

theorem exec_of_traps {i : Instr} {s : State} (h : Traps i s) : ∃ e info, exec i s = raise e info s := by
  rcases h with rfl | rfl | ⟨rfl, hM⟩ | ⟨rfl, hU⟩ | ⟨a, rd, ho, hc⟩
  · exact ⟨_, _, rfl⟩
  · exact ⟨_, _, rfl⟩
  · exact ⟨_, _, if_neg hM⟩
  · exact ⟨_, _, if_pos hU⟩
  · exact ⟨_, _, exec_csr_illegal ho hc⟩

/-- An instruction that neither traps nor is `WFI` steps the counters of the state its own write left, and retires. -/
theorem exec_steps_of_not_traps {i : Instr} {s t : State} (ht : exec i s = .next t) (h : ¬ Traps i s)
    (hi : i ≠ .wfi) : CountersStep s (afterWrite i s) (csrWritten i s) true t := by
  cases ho : csrOperands i with
  | some p =>
    obtain ⟨a, rd⟩ := p
    obtain ⟨c, hc⟩ : ∃ c, csrCheck s a (writesCsr i) = some c :=
      Option.ne_none_iff_exists'.1 fun hn => h (.inr (.inr (.inr (.inr ⟨a, rd, ho, hn⟩))))
    obtain ⟨hwrote, hafter⟩ := afterWrite_eq_csrWriteIf ho hc
    rw [eq_csrDone_of_exec ho hc ht, hwrote, hafter]
    exact csrDone_steps s _ _ c rd
  | none =>
    cases i
    case ecall => exact absurd (.inl rfl) h
    case ebreak => exact absurd (.inr (.inl rfl)) h
    case wfi => exact absurd rfl hi
    case mret =>
      have hM : s.priv = .M := by
        by_contra hM
        exact h (.inr (.inr (.inl ⟨rfl, hM⟩)))
      obtain rfl := Host.Outcome.next.inj ((if_pos hM).symm.trans ht)
      exact (stepCounters_steps s none true _).of_same rfl rfl rfl rfl rfl
    case sret =>
      have hU : s.priv ≠ .U := fun hU => h (.inr (.inr (.inr (.inl ⟨rfl, hU⟩))))
      obtain rfl := Host.Outcome.next.inj ((if_neg hU).symm.trans ht)
      exact (stepCounters_steps s none true _).of_same rfl rfl rfl rfl rfl
    all_goals cases ho

/-! ## Over `WFI` -/

/-- What the counters do over a `WFI` or a boundary of its wait (R164, log 17): nothing while it waits, a retiring step
when it completes, a trap's step when it times out. -/
def AfterWfi (s t : State) : Prop :=
  (t.waiting = true ∧ t.mcycle = s.mcycle ∧ t.minstret = s.minstret ∧ t.mhpmcounter = s.mhpmcounter ∧
    t.mhpmevent = s.mhpmevent ∧ t.mip = s.mip) ∨
  (t.waiting = false ∧ t.pc = s.pc + 4#64 ∧ CountersStep s s none true t ∧
    withCountersOf s { t with pc := s.pc, waiting := s.waiting, waitSteps := s.waitSteps } = s) ∨
  (CountersStep s s none false t ∧ (EntersM false 2 0x10500073#64 s t ∨ EntersS false 2 0x10500073#64 s t))

theorem wfiDone_afterWfi (s : State) : AfterWfi s (wfiDone s) := by
  refine .inr (.inl ⟨rfl, rfl, (stepCounters_steps s none true _).of_same rfl rfl rfl rfl rfl, ?_⟩)
  exact (withCountersOf_stepCounters s s none true s).trans (withCountersOf_self s)

theorem wfiTimeOut_afterWfi {s t : State} (h : raiseIllegal .wfi s = .next t) : AfterWfi s t := by
  have hword : (encode .wfi).zeroExtend 64 = 0x10500073#64 := by decide
  rw [raiseIllegal, hword] at h
  refine .inr (.inr ⟨takeTrap_steps h, ?_⟩)
  rcases takeTrap_enters h with ⟨_, hS⟩ | ⟨_, hM⟩
  · exact .inr hS
  · exact .inl hM

theorem exec_wfi_afterWfi {s t : State} (h : exec .wfi s = .next t) : AfterWfi s t := by
  rw [exec, execWfi] at h
  split at h
  · exact wfiTimeOut_afterWfi h
  · obtain rfl := Host.Outcome.next.inj h
    split
    · exact .inl ⟨rfl, rfl, rfl, rfl, rfl, rfl⟩
    · exact wfiDone_afterWfi s

theorem waitStep_afterWfi {s t : State} (hw : s.waiting = true) (h : waitStep s = .next t) : AfterWfi s t := by
  rw [waitStep] at h
  split at h
  · obtain rfl := Host.Outcome.next.inj h
    exact wfiDone_afterWfi s
  · split at h
    · exact wfiTimeOut_afterWfi h
    · obtain rfl := Host.Outcome.next.inj h
      exact .inl ⟨hw, rfl, rfl, rfl, rfl, rfl⟩

/-! ## Over a step with no instruction to run -/

/-- A hart that does not wait, and takes an interrupt or finds no instruction to run, takes a trap. -/
theorem hartActs_steps_without_instr {s t : State} (hw : s.waiting = false)
    (hn : pendingInterrupt s ≠ none ∨ ∀ bytes i rest, fetchBytes s = some bytes → decode bytes ≠ .instr i rest)
    (h : hartActs s = .next t) : CountersStep s s none false t := by
  rw [hartActs, hw, if_neg Bool.false_ne_true] at h
  split at h
  · exact takeTrap_steps h
  case h_2 hnone =>
    have hno := hn.resolve_left (not_not_intro hnone)
    rw [runInstruction] at h
    split at h
    · exact takeTrap_steps h
    case h_2 bytes hb =>
      split at h
      case h_1 i rest hd => exact absurd hd (hno bytes i rest hb)
      · split at h
        · cases h
        · exact takeTrap_steps h
      · cases h
      · exact takeTrap_steps h

/-- Settles O36: by what each instruction and each kind of step does to the counters. -/
theorem eventCounterOverflowSetsOfAndInterrupt : Obligations.EventCounterOverflowSetsOfAndInterrupt := by
  refine ⟨fun i s t ht => ⟨fun htraps => ?_, fun hnot hi => exec_steps_of_not_traps ht hnot hi, ?_⟩,
    fun s t ht => ⟨fun hw => ?_, fun hw hn => ?_⟩⟩
  · obtain ⟨e, info, hraise⟩ := exec_of_traps htraps
    exact takeTrap_steps (hraise.symm.trans ht)
  · rintro rfl
    exact exec_wfi_afterWfi ht
  · have hw' : (platformActs s).waiting = true := (platformActs_waiting s).trans hw
    rw [step, hartActs, if_pos hw'] at ht
    exact waitStep_afterWfi hw' ht
  · exact hartActs_steps_without_instr ((platformActs_waiting s).trans hw) hn ht

end Sys2Proof.Machine
end

section
/-! PROOFS. Writes of `mstatus`, `sstatus` and the floating-point registers (10_state.md R22 to R24, R29, R39 to R50). -/

namespace Sys2Proof.Machine

/-! ## `mstatus` -/

/-- CSRRW of `mstatus` in M-mode without bits 20 and 22 completes. -/
theorem exec_csrrw_mstatus {s : State} (h : s.priv = .M) {rs1 : RegNum} (hv : s.getX rs1 &&& 0x500000#64 = 0#64)
    (rd : RegNum) :
    exec (.csrrw rd 0x300#12 rs1) s =
      .next (csrDone s (csrWrite s .mstatus (s.getX rs1)) (some .mstatus) .mstatus rd) := by
  refine exec_csrrw_completes (csrCheck_mstatus h true) ?_ rd
  simp [csrWriteRefused, statusTrapMask, hv]

/-- The unnamed bits under the setting "standard": `SD` alone (R50). -/
theorem mstatusVal_and_unnamed {s : State} (h : s.par.unnamedBits = .standard) :
    mstatusVal s &&& ~~~namedStatusMask =
      if s.mstatus.fs = 3#2 ∨ s.mstatus.vs = 3#2 then 0x8000000000000000#64 else 0#64 := by
  rw [mstatusVal, BitVec.and_or_distrib_right, ← statusNamed_and_named, and_and_not_self, h, BitVec.zero_or,
    statusUnnamed, flagAt_and_of_mem _ (by decide)]
  simp [flagAt]

/-- `MPP` takes the mode the field written names, and keeps its value when it names none (R42). -/
theorem statusWrite_mpp (big : Bool) (m : Status) (v : Word) :
    (v.extractLsb' 11 2 = 0#2 → (statusWrite big m v).mpp = .U) ∧
    (v.extractLsb' 11 2 = 1#2 → (statusWrite big m v).mpp = .S) ∧
    (v.extractLsb' 11 2 = 3#2 → (statusWrite big m v).mpp = .M) ∧
    (v.extractLsb' 11 2 = 2#2 → (statusWrite big m v).mpp = m.mpp) := by
  refine ⟨?_, ?_, ?_, ?_⟩ <;> intro hc <;> rw [statusWrite, hc] <;> rfl

/-- Within the named bits a read of `mstatus` shows `statusNamed`. -/
theorem mstatusVal_and_of_named (s : State) {m : Word} (hm : namedStatusMask &&& m = m) :
    mstatusVal s &&& m = statusNamed s.par.bigEndian s.mstatus &&& m := by
  rw [← hm, ← BitVec.and_assoc, mstatusVal_and_named, ← BitVec.and_assoc, statusNamed_and_named]

/-- Settles O24: the word read is `statusNamed` of `statusWrite`, whose bits `statusNamed_statusWrite` gives. -/
theorem mstatusTakesWrittenBits : Obligations.MstatusTakesWrittenBits := by
  intro s rd rs1 hM hv
  refine ⟨_, exec_csrrw_mstatus hM hv rd, ?_⟩
  intro v m big
  obtain ⟨hU, hS, hMM, hkeep⟩ := statusWrite_mpp s.par.bigEndian s.mstatus v
  refine ⟨?_, fun hstd => ?_, rfl, rfl, rfl, rfl, rfl, rfl, rfl, rfl, rfl, rfl, rfl, hU, hS, hMM, hkeep, fun hb => ?_⟩
  · refine (mstatusVal_and_named _).trans ((statusNamed_statusWrite s.par.bigEndian s.mstatus v).trans ?_)
    have hmpp : (if v.extractLsb' 11 2 = 2#2 then statusNamed s.par.bigEndian s.mstatus else v) &&& 0x1800#64 =
        (if v.extractLsb' 11 2 = 2#2 then csrRead s .mstatus else v) &&& 0x1800#64 := by
      split
      · exact (mstatusVal_and_of_named s (by decide)).symm
      · rfl
    exact congrArg (0xA00000000#64 ||| v &&& statusPlainMask s.par.bigEndian ||| ·) hmpp
  · exact mstatusVal_and_unnamed hstd
  · exact ⟨if_pos hb, if_pos hb, if_pos hb⟩

/-! ## `sstatus` -/

/-- The bits of `mstatus` a write through `sstatus` reaches (R29). -/
def sstatusWritableMask (bigEndian : Bool) : Word := 0xC6722#64 ||| if bigEndian then 0x40#64 else 0#64

/-- The bits of `mstatus` that are constant where big-endian is not supported (R43). -/
def endianConstMask (bigEndian : Bool) : Word := if bigEndian then 0#64 else 0x3000000040#64

/-- Where each bit of a word written through `sstatus` comes from: `n` is the bit of `mstatus` and `x` that of the
source. -/
theorem sstatus_bit_origin : ∀ (big n x : Bool) (k : Fin 64),
    (n && (0xF00000000#64).getLsbD k) = (0xA00000000#64).getLsbD k → (n && (endianConstMask big).getLsbD k) = false →
    ((0xA00000000#64).getLsbD k ||
      (if sstatusMask.getLsbD k then x else n) && (statusPlainMask big).getLsbD k || n && (0x1800#64).getLsbD k) =
    ((n && !(sstatusWritableMask big).getLsbD k || x && (sstatusWritableMask big).getLsbD k) &&
      namedStatusMask.getLsbD k) := by
  decide

theorem mergeBits_and_of_disjoint {m r : Word} (old v : Word) (h : ~~~m &&& r = r ∧ m &&& r = 0#64) :
    mergeBits m old v &&& r = old &&& r := by
  rw [mergeBits, BitVec.and_or_distrib_right, BitVec.and_assoc, h.1, BitVec.and_assoc, h.2, BitVec.and_zero,
    BitVec.or_zero]

theorem ite_and_eq {p : Prop} [Decidable p] {x y r : Word} (h : y &&& r = x &&& r) :
    (if p then x else y) &&& r = x &&& r := by
  split
  · rfl
  · exact h

/-- The named bits after a write of `v` through `sstatus` (R29). -/
theorem statusNamed_write_sstatus (big : Bool) (m : Status) (v : Word) :
    statusNamed big (statusWrite big m (mergeBits sstatusMask (statusNamed big m) v)) =
      (statusNamed big m &&& ~~~sstatusWritableMask big ||| v &&& sstatusWritableMask big) &&& namedStatusMask := by
  have hend : statusNamed big m &&& endianConstMask big = 0#64 := by
    cases big
    · exact statusNamed_and_endian m
    · exact BitVec.and_zero
  have hmpp : mergeBits sstatusMask (statusNamed big m) v &&& 0x1800#64 = statusNamed big m &&& 0x1800#64 :=
    mergeBits_and_of_disjoint _ _ (by decide)
  rw [statusNamed_statusWrite, ite_and_eq hmpp]
  refine BitVec.eq_of_getLsbD_eq fun k hk => ?_
  have hxlBit := congrArg (·.getLsbD k) (statusNamed_and_xl big m)
  have hendBit := congrArg (·.getLsbD k) hend
  simp only [BitVec.getLsbD_and, BitVec.getLsbD_zero] at hxlBit hendBit
  simp only [BitVec.getLsbD_or, BitVec.getLsbD_and, BitVec.getLsbD_not, mergeBits_getLsbD _ _ _ _ hk, hk, decide_true,
    Bool.true_and]
  exact sstatus_bit_origin big _ _ ⟨k, hk⟩ hxlBit hendBit

/-- Settles O25: outside the view the word written is the named bits of `mstatus` themselves. -/
theorem sstatusIsAViewOfMstatus : Obligations.SstatusIsAViewOfMstatus := by
  intro s rd rs1 hU
  refine ⟨_, exec_csrrw_supervisor hU (c := .sstatus) rfl rfl rfl rfl rd rs1, ?_, csrDone_getX _ _ _ _ _⟩
  have hold : ∀ w : Word, csrRead s .mstatus &&& ~~~w &&& namedStatusMask =
      statusNamed s.par.bigEndian s.mstatus &&& ~~~w &&& namedStatusMask := fun w => by
    rw [BitVec.and_assoc, BitVec.and_assoc, BitVec.and_comm (~~~w), ← BitVec.and_assoc, ← BitVec.and_assoc,
      statusNamed_and_named]
    exact congrArg (· &&& ~~~w) (mstatusVal_and_named s)
  refine (mstatusVal_and_named _).trans ((statusNamed_write_sstatus s.par.bigEndian s.mstatus _).trans ?_)
  rw [BitVec.and_or_distrib_right, ← hold, ← BitVec.and_or_distrib_right]
  rfl

/-! ## The floating-point registers -/

/-- A write of `fflags` takes the five low bits and keeps the other three (R22). -/
theorem fflags_write (f : BitVec 8) (v : Word) :
    f &&& 0xE0#8 ||| v.setWidth 8 &&& 0x1F#8 = f.extractLsb' 5 3 ++ v.extractLsb' 0 5 := by
  refine BitVec.eq_of_getLsbD_eq fun k hk => ?_
  rw [BitVec.getLsbD_append]
  interval_cases k <;> simp

/-- A write of `frm` puts three bits above the other five (R23). -/
theorem frm_write (f : BitVec 8) (v : Word) :
    f &&& 0x1F#8 ||| v.setWidth 8 <<< 5 = v.extractLsb' 0 3 ++ f.extractLsb' 0 5 := by
  refine BitVec.eq_of_getLsbD_eq fun k hk => ?_
  rw [BitVec.getLsbD_append]
  interval_cases k <;> simp

/-- What `fflags` and `frm` read (R22, R23). -/
theorem float_windows : ∀ f : BitVec 8,
    (f &&& 0x1F#8).zeroExtend 64 = (f.extractLsb' 0 5).zeroExtend 64 ∧
    (f >>> 5).zeroExtend 64 = (f.extractLsb' 5 3).zeroExtend 64 := by
  decide

theorem csrCheck_float_off {s : State} (h : s.mstatus.fs = 0#2) {a : CsrAddr} (ha : floatAddr a = true) (w : Bool) :
    csrCheck s a w = none := by
  simp [csrCheck, ha, h]

theorem csrCheck_float_on {s : State} (h : s.mstatus.fs ≠ 0#2) {c : Csr} (hc : c = .fflags ∨ c = .frm ∨ c = .fcsr) :
    csrCheck s c.addr true = some c := by
  have hp : privilegeAllows s.priv c.addr = true := by
    rcases hc with rfl | rfl | rfl <;> cases s.priv <;> rfl
  have hw : readOnlyAddr c.addr = false ∧ userCounterAddr c.addr = false := by
    rcases hc with rfl | rfl | rfl <;> exact ⟨rfl, rfl⟩
  simp [csrCheck, hp, hw, h, Csr.ofAddr_addr]

theorem exec_csrrw_float {s : State} (h : s.mstatus.fs ≠ 0#2) {c : Csr} (hc : c = .fflags ∨ c = .frm ∨ c = .fcsr)
    (rd rs1 : RegNum) :
    exec (.csrrw rd c.addr rs1) s = .next (csrDone s (csrWrite s c (s.getX rs1)) (some c) c rd) := by
  have hm : c ≠ .mstatus := by
    rcases hc with rfl | rfl | rfl <;> decide
  exact exec_csrrw_completes (csrCheck_float_on h hc) (csrWriteRefused_of_ne hm _) rd

/-- Settles O26. -/
theorem floatCsrsAreWindowsOnFcsr : Obligations.FloatCsrsAreWindowsOnFcsr := by
  intro s rd rs1
  refine ⟨fun hon => ?_, fun hoff i a ho ha => ?_⟩
  · refine ⟨_, _, _, exec_csrrw_float hon (c := .fflags) (.inl rfl) rd rs1,
      exec_csrrw_float hon (c := .frm) (.inr (.inl rfl)) rd rs1,
      exec_csrrw_float hon (c := .fcsr) (.inr (.inr rfl)) rd rs1, fflags_write s.fcsr _, frm_write s.fcsr _, rfl,
      rfl, rfl, rfl, ?_, ?_, csrDone_getX _ _ _ _ _⟩
    · rw [csrDone_getX, ← (float_windows s.fcsr).1]
      rfl
    · rw [csrDone_getX, ← (float_windows s.fcsr).2]
      rfl
  · have hf : floatAddr a = true := by
      rcases ha with rfl | rfl | rfl <;> rfl
    exact exec_csr_takes_illegal ho (csrCheck_float_off hoff hf _)

end Sys2Proof.Machine
end

section
/-! PROOFS. Writes of the trap registers and of the masked registers, and what a read then returns (10_state.md R31 to
R36, R52 to R67). -/

namespace Sys2Proof.Machine

/-! ## The vectors and the saved program counters -/

/-- Settles O27: what is stored is `vectorStore`, bit by bit. -/
theorem trapVectorsTakeBaseAndLegalMode : Obligations.TrapVectorsTakeBaseAndLegalMode := by
  intro s rd rs1 k hk
  refine ⟨fun hM => ?_, fun hU => ?_⟩
  · exact ⟨_, exec_csrrw_machine hM (c := .mtvec) rfl rfl (by decide) rd rs1, vectorStore_getLsbD _ _ _ hk, rfl, rfl,
      csrDone_getX _ _ _ _ _⟩
  · exact ⟨_, exec_csrrw_supervisor hU (c := .stvec) rfl rfl rfl rfl rd rs1, vectorStore_getLsbD _ _ _ hk, rfl, rfl,
      csrDone_getX _ _ _ _ _⟩

/-- A saved program counter reads the value written without its low bits (R61, R34). -/
theorem epc_getLsbD (p : Params) (v : Word) {k : Nat} (hk : k < 64) :
    (v &&& ~~~epcLow p &&& ~~~epcLow p).getLsbD k =
      (v.getLsbD k && decide (2 ≤ k ∨ (k = 1 ∧ p.hasC = true))) := by
  have hlow : ∀ (b : Bool) (j : Fin 64),
      (!(if b then 1#64 else 3#64).getLsbD j) = decide (2 ≤ j.val ∨ (j.val = 1 ∧ b = true)) := by decide
  rw [BitVec.and_assoc, BitVec.and_self, BitVec.getLsbD_and, BitVec.getLsbD_not, ← hlow p.hasC ⟨k, hk⟩]
  simp only [hk, decide_true, Bool.true_and]
  rfl

/-- Settles O28: the value is masked as it is written and again as it is read. -/
theorem savedPcsDropTheirLowBits : Obligations.SavedPcsDropTheirLowBits := by
  intro s rd rs1 k hk
  refine ⟨fun hM => ?_, fun hU => ?_⟩
  · exact ⟨_, exec_csrrw_machine hM (c := .mepc) rfl rfl (by decide) rd rs1, epc_getLsbD s.par _ hk⟩
  · exact ⟨_, exec_csrrw_supervisor hU (c := .sepc) rfl rfl rfl rfl rd rs1, epc_getLsbD s.par _ hk⟩

/-! ## The registers that store what is written -/

/-- Settles O29: a write stores the word as it is. -/
theorem plainTrapRegistersStoreEveryBit : Obligations.PlainTrapRegistersStoreEveryBit := by
  intro s rd rs1 c
  refine ⟨?_, ?_⟩
  · rintro (rfl | rfl) hM
    · exact ⟨_, exec_csrrw_machine hM rfl rfl (by decide) rd rs1, rfl, csrDone_getX _ _ _ _ _⟩
    · exact ⟨_, exec_csrrw_machine hM rfl rfl (by decide) rd rs1, rfl, csrDone_getX _ _ _ _ _⟩
  · rintro (rfl | rfl) hU
    · exact ⟨_, exec_csrrw_supervisor hU rfl rfl rfl rfl rd rs1, rfl, csrDone_getX _ _ _ _ _⟩
    · exact ⟨_, exec_csrrw_supervisor hU rfl rfl rfl rfl rd rs1, rfl, csrDone_getX _ _ _ _ _⟩

theorem csrWrite_mtval (s : State) (v : Word) :
    (csrWrite s .mtval v).mtval = if s.par.mtvalWritable then v else s.mtval := by
  simp only [csrWrite]
  split <;> rfl

theorem csrWrite_stval (s : State) (v : Word) :
    (csrWrite s .stval v).stval = if s.par.mtvalWritable then v else s.stval := by
  simp only [csrWrite]
  split <;> rfl

theorem warlStore_cases (s : State) (c : Csr) (v : Word) : warlStore s c v = v ∨ warlStore s c v = 0#64 :=
  ite_eq_or_eq _ _ _

/-- Settles O30: by the write rule of each register. -/
theorem trapValueRegistersFollowTheirWriteRules : Obligations.TrapValueRegistersFollowTheirWriteRules := by
  intro s rd rs1 reads
  refine ⟨fun hM => ?_, fun hU => ?_, fun hM => ?_, fun hM => ?_⟩
  · exact ⟨_, exec_csrrw_machine hM (c := .mtval) rfl rfl (by decide) rd rs1, csrDone_getX _ _ _ _ _, rfl,
      csrWrite_mtval s _⟩
  · exact ⟨_, exec_csrrw_supervisor hU (c := .stval) rfl rfl rfl rfl rd rs1, csrDone_getX _ _ _ _ _, rfl,
      csrWrite_stval s _⟩
  · exact ⟨_, exec_csrrw_machine hM (c := .mtinst) rfl rfl (by decide) rd rs1, csrDone_getX _ _ _ _ _, rfl,
      warlStore_cases s .mtinst _⟩
  · exact ⟨_, exec_csrrw_machine hM (c := .mtval2) rfl rfl (by decide) rd rs1, csrDone_getX _ _ _ _ _, rfl,
      warlStore_cases s .mtval2 _⟩

/-! ## The masked registers -/

/-- A masked 32-bit register, read as a word, is the word written under the mask. -/
theorem setWidth_and_zeroExtend (v : Word) (m : BitVec 32) :
    (v.setWidth 32 &&& m).zeroExtend 64 = v &&& m.zeroExtend 64 := by
  refine BitVec.eq_of_getLsbD_eq fun k hk => ?_
  simp only [BitVec.zeroExtend_eq_setWidth, BitVec.getLsbD_setWidth, BitVec.getLsbD_and, hk, decide_true, Bool.true_and]
  by_cases h : k < 32
  · simp [h]
  · simp [h, BitVec.getLsbD_of_ge m k (Nat.le_of_not_lt h)]

theorem setWidth_zeroExtend (v : Word) : (v.setWidth 32).zeroExtend 64 = v &&& 0xFFFFFFFF#64 := by
  have h := setWidth_and_zeroExtend v (BitVec.allOnes 32)
  rwa [BitVec.and_allOnes] at h

/-- Masking again changes nothing. -/
theorem and_mask_and_mask {n : Nat} (v m : BitVec n) : v &&& m &&& m = v &&& m := by
  rw [BitVec.and_assoc, BitVec.and_self]

/-- What a read of each masked register returns after a write of `v` (R52, R53, R54, R57, R58, R32). -/
theorem csrRead_csrWrite_masked (s : State) (v : Word) {c : Csr} {m : Word}
    (h : (c = .medeleg ∧ m = medelegMask) ∨ (c = .mideleg ∧ m = sIntMask) ∨ (c = .mie ∧ m = intMask s.par) ∨
      (c = .mcounteren ∧ m = 0xFFFFFFFF#64) ∨ (c = .mcountinhibit ∧ m = 0xFFFFFFFD#64) ∨
      (c = .scounteren ∧ m = 0xFFFFFFFF#64)) :
    csrRead (csrWrite s c v) c = v &&& m := by
  rcases h with ⟨rfl, rfl⟩ | ⟨rfl, rfl⟩ | ⟨rfl, rfl⟩ | ⟨rfl, rfl⟩ | ⟨rfl, rfl⟩ | ⟨rfl, rfl⟩
  · exact and_mask_and_mask v _
  · exact and_mask_and_mask v _
  · exact and_mask_and_mask v _
  · exact setWidth_zeroExtend v
  · have hm : inhibitMask.zeroExtend 64 = 0xFFFFFFFD#64 := by decide
    rw [← hm, ← setWidth_and_zeroExtend, ← and_mask_and_mask (v.setWidth 32)]
    rfl
  · exact setWidth_zeroExtend v

/-- Settles O31: each register completes in M-mode, and counter stepping does not touch it. -/
theorem maskedRegistersReadBackTheirBits : Obligations.MaskedRegistersReadBackTheirBits := by
  intro s rd rs1 c m h hM
  have hread := csrRead_csrWrite_masked s (s.getX rs1) h
  rcases h with ⟨rfl, rfl⟩ | ⟨rfl, rfl⟩ | ⟨rfl, rfl⟩ | ⟨rfl, rfl⟩ | ⟨rfl, rfl⟩ | ⟨rfl, rfl⟩
  all_goals exact ⟨_, exec_csrrw_machine hM rfl rfl (by decide) rd rs1, hread⟩

end Sys2Proof.Machine
end

section
/-! PROOFS. The interrupt registers bit by bit: `mie` and `mip`, and their supervisor views (10_state.md R30, R37, R54,
R64, R65). -/

namespace Sys2Proof.Machine

/-! ## The masks -/

theorem sIntMask_getLsbD {k : Nat} (hk : k < 64) : sIntMask.getLsbD k = decide (k = 1 ∨ k = 5 ∨ k = 9 ∨ k = 13) := by
  have h : ∀ j : Fin 64, sIntMask.getLsbD j = decide (j.val = 1 ∨ j.val = 5 ∨ j.val = 9 ∨ j.val = 13) := by decide
  exact h ⟨k, hk⟩

theorem sipWritableMask_getLsbD {k : Nat} (hk : k < 64) : sipWritableMask.getLsbD k = decide (k = 1 ∨ k = 13) := by
  have h : ∀ j : Fin 64, sipWritableMask.getLsbD j = decide (j.val = 1 ∨ j.val = 13) := by decide
  exact h ⟨k, hk⟩

/-- The interrupts that exist: the standard ones, and the platform's from 16 up (R54, R182). -/
theorem intMask_getLsbD (p : Params) {k : Nat} (hk : k < 64) :
    (intMask p).getLsbD k =
      (decide (k = 1 ∨ k = 3 ∨ k = 5 ∨ k = 7 ∨ k = 9 ∨ k = 11 ∨ k = 13) ||
        (decide (16 ≤ k) && p.platformIrqMask.getLsbD k)) := by
  have hstd : ∀ j : Fin 64, (0x2AAA#64).getLsbD j =
      decide (j.val = 1 ∨ j.val = 3 ∨ j.val = 5 ∨ j.val = 7 ∨ j.val = 9 ∨ j.val = 11 ∨ j.val = 13) := by decide
  have hhigh : ∀ j : Fin 64, (~~~0xFFFF#64).getLsbD j = decide (16 ≤ j.val) := by decide
  rw [intMask, BitVec.getLsbD_or, BitVec.getLsbD_and, hstd ⟨k, hk⟩, hhigh ⟨k, hk⟩,
    Bool.and_comm (p.platformIrqMask.getLsbD k)]

theorem midelegVal_getLsbD (s : State) {k : Nat} (hk : k < 64) :
    (midelegVal s).getLsbD k = (decide (k = 1 ∨ k = 5 ∨ k = 9 ∨ k = 13) && s.mideleg.getLsbD k) := by
  rw [midelegVal, BitVec.getLsbD_and, sIntMask_getLsbD hk, Bool.and_comm]

/-! ## What the registers read -/

theorem mipRead_getLsbD (s : State) {k : Nat} (hk : k < 64) :
    (mipRead s).getLsbD k = ((intMask s.par).getLsbD k && s.mip.getLsbD k || (k == 9 && s.extSeip)) := by
  rw [mipRead, BitVec.getLsbD_or, mipStored, BitVec.getLsbD_and, flagAt_getLsbD _ _ _ hk,
    Bool.and_comm (s.mip.getLsbD k), Bool.and_comm s.extSeip]
  rfl

/-- A delegated bit is the bit of an interrupt that exists. -/
theorem intMask_of_midelegVal {s : State} {k : Nat} (h : (midelegVal s).getLsbD k = true) :
    (intMask s.par).getLsbD k = true := by
  rw [midelegVal, BitVec.getLsbD_and, Bool.and_eq_true] at h
  exact sIntMask_subset_intMask _ _ h.2

/-- `sie` shows the delegated bits of `mie` (R30). -/
theorem sieVal_getLsbD (s : State) (k : Nat) :
    (sieVal s).getLsbD k = ((midelegVal s).getLsbD k && s.mie.getLsbD k) := by
  rw [sieVal, BitVec.getLsbD_and, mieVal, BitVec.getLsbD_and]
  cases h : (midelegVal s).getLsbD k
  · simp
  · simp [intMask_of_midelegVal h]

/-- `sip` shows the delegated bits of `mip`, bit 9 with the external input (R37). -/
theorem sipVal_getLsbD (s : State) {k : Nat} (hk : k < 64) :
    (sipVal s).getLsbD k = ((midelegVal s).getLsbD k && (s.mip.getLsbD k || (k == 9 && s.extSeip))) := by
  rw [sipVal, BitVec.getLsbD_and, mipRead_getLsbD s hk]
  cases h : (midelegVal s).getLsbD k
  · simp
  · simp [intMask_of_midelegVal h]

/-! ## The supervisor views -/

/-- Settles O32: the views read and reach the bits of `midelegVal`; counter stepping adds bit 13 of `mip` on an
overflow. -/
theorem supervisorInterruptViewsReachDelegatedBits : Obligations.SupervisorInterruptViewsReachDelegatedBits := by
  intro s rd rs1 k hk hU shown
  refine ⟨⟨_, exec_csrrw_supervisor hU (c := .sie) rfl rfl rfl rfl rd rs1, ?_, ?_⟩,
    ⟨_, exec_csrrw_supervisor hU (c := .sip) rfl rfl rfl rfl rd rs1, ?_, ?_, ?_⟩⟩
  · rw [csrDone_getX_getLsbD]
    simp only [shown, csrRead, sieVal_getLsbD, midelegVal_getLsbD s hk, Bool.and_assoc]
  · refine (mergeBits_getLsbD (midelegVal s) s.mie _ k hk).trans ?_
    simp only [midelegVal_getLsbD s hk, Bool.and_eq_true, decide_eq_true_eq]
  · rw [csrDone_getX_getLsbD]
    simp only [shown, csrRead, sipVal_getLsbD s hk, midelegVal_getLsbD s hk, Bool.and_assoc]
  · intro h13
    obtain ⟨-, -, -, hkeep, -⟩ := csrDone_steps s (csrWrite s .sip (s.getX rs1)) (some .sip) .sip rd
    refine (hkeep k h13).trans ((mergeBits_getLsbD _ s.mip _ k hk).trans ?_)
    rw [BitVec.getLsbD_and, sipWritableMask_getLsbD hk, midelegVal_getLsbD s hk]
    by_cases h1 : k = 1
    · simp [h1]
    · simp [h1, h13]
  · obtain ⟨-, -, -, -, h13⟩ := csrDone_steps s (csrWrite s .sip (s.getX rs1)) (some .sip) .sip rd
    have hwrite : (csrWrite s .sip (s.getX rs1)).mip.getLsbD 13 =
        if s.mideleg.getLsbD 13 then (s.getX rs1).getLsbD 13 else s.mip.getLsbD 13 := by
      refine (mergeBits_getLsbD _ s.mip _ 13 (by decide)).trans ?_
      rw [BitVec.getLsbD_and, sipWritableMask_getLsbD (by decide), midelegVal_getLsbD s (by decide)]
      rfl
    rw [hwrite] at h13
    exact h13

/-! ## `mip` -/

/-- What `Obligations.MipReadModifyWriteUsesTheLatch` says of bit `k` after a write of `mip` that gives a writable bit the
value `v`. -/
def MipWritten (s : State) (rd : RegNum) (k : Nat) (v : Bool) (t : State) : Prop :=
  (rd ≠ 0#5 → (t.getX rd).getLsbD k =
    (((decide (k = 1 ∨ k = 3 ∨ k = 5 ∨ k = 7 ∨ k = 9 ∨ k = 11 ∨ k = 13) ||
      (decide (16 ≤ k) && s.par.platformIrqMask.getLsbD k)) && s.mip.getLsbD k) || (k == 9 && s.extSeip))) ∧
  t.extSeip = s.extSeip ∧
  (k = 1 ∨ k = 5 ∨ k = 9 → t.mip.getLsbD k = v) ∧
  (k = 13 → (t.mip.getLsbD k = true ↔ v = true ∨ OverflowRose s t)) ∧
  (k ≠ 1 → k ≠ 5 → k ≠ 9 → k ≠ 13 → t.mip.getLsbD k = s.mip.getLsbD k)

/-- A write of `u` to `mip` (R65): bits 1, 5, 9 and 13 take its bits, an overflow sets bit 13 on top (log 15). -/
theorem csrDone_mip_written (s : State) (rd : RegNum) {k : Nat} (hk : k < 64) (u : Word) {v : Bool}
    (hv : k = 1 ∨ k = 5 ∨ k = 9 ∨ k = 13 → u.getLsbD k = v) :
    MipWritten s rd k v (csrDone s (csrWrite s .mip u) (some .mip) .mip rd) := by
  obtain ⟨-, -, -, hkeep, h13⟩ := csrDone_steps s (csrWrite s .mip u) (some .mip) .mip rd
  have hwrite : (csrWrite s .mip u).mip.getLsbD k =
      if k = 1 ∨ k = 5 ∨ k = 9 ∨ k = 13 then u.getLsbD k else s.mip.getLsbD k := by
    refine (mergeBits_getLsbD mipWritableMask s.mip u k hk).trans ?_
    have hm : mipWritableMask.getLsbD k = decide (k = 1 ∨ k = 5 ∨ k = 9 ∨ k = 13) := sIntMask_getLsbD hk
    simp only [hm, decide_eq_true_eq]
  refine ⟨fun hrd => ?_, rfl, fun h => ?_, fun h => ?_, fun h1 h5 h9 hne => ?_⟩
  · rw [csrDone_getX_getLsbD, ← intMask_getLsbD s.par hk, ← mipRead_getLsbD s hk]
    simp [hrd, csrRead]
  · have hw : k = 1 ∨ k = 5 ∨ k = 9 ∨ k = 13 := by omega
    rw [hkeep k (by omega), hwrite, if_pos hw, hv hw]
  · have hw : k = 1 ∨ k = 5 ∨ k = 9 ∨ k = 13 := by omega
    rw [← hv hw]
    rw [if_pos hw] at hwrite
    subst h
    rw [hwrite] at h13
    exact h13
  · have hw : ¬ (k = 1 ∨ k = 5 ∨ k = 9 ∨ k = 13) := by omega
    rw [hkeep k hne, hwrite, if_neg hw]

/-- At a writable bit the stored value is that of `mip` (R65). -/
theorem mipStored_getLsbD {s : State} {k : Nat} (h : k = 1 ∨ k = 5 ∨ k = 9 ∨ k = 13) :
    (mipStored s).getLsbD k = s.mip.getLsbD k := by
  have hk : k < 64 := by omega
  have hm : (intMask s.par).getLsbD k = true := sIntMask_subset_intMask _ _ (by simpa [sIntMask_getLsbD hk] using h)
  rw [mipStored, BitVec.getLsbD_and, hm, Bool.and_true]

/-- Settles O33: the three forms differ in the value written only, formed from the stored bits. -/
theorem mipReadModifyWriteUsesTheLatch : Obligations.MipReadModifyWriteUsesTheLatch := by
  intro s rd rs1 k hM hk x old known after
  have hck : csrCheck s 0x344#12 true = some .mip := csrCheck_machine hM (c := .mip) rfl fun _ => rfl
  refine ⟨⟨_, exec_csrrw_completes hck rfl rd, csrDone_mip_written s rd hk _ fun _ => rfl⟩, fun hne => ?_, fun hne => ?_⟩
  · refine ⟨_, exec_csr_writes (i := .csrrs rd 0x344#12 rs1) rfl (bne_iff_ne.2 hne) hck rfl,
      csrDone_mip_written s rd hk _ fun hw => ?_⟩
    change (mipStored s ||| s.getX rs1).getLsbD k = _
    rw [BitVec.getLsbD_or, mipStored_getLsbD hw]
  · refine ⟨_, exec_csr_writes (i := .csrrc rd 0x344#12 rs1) rfl (bne_iff_ne.2 hne) hck rfl,
      csrDone_mip_written s rd hk _ fun hw => ?_⟩
    change (mipStored s &&& ~~~s.getX rs1).getLsbD k = _
    rw [BitVec.getLsbD_and, BitVec.getLsbD_not, mipStored_getLsbD hw]
    simp [x, old, hk]

end Sys2Proof.Machine
end

section
/-! PROOFS. Counters, selectors, `scountovf`, the information registers and the debug registers (10_state.md R25 to R28,
R38, R51, R59, R68 to R82). -/

namespace Sys2Proof.Machine

/-! ## Reading the counters -/

/-- `v` is what counter `k` holds: the cycle counter, `time`, the instruction counter, or an event counter, which reads 0
where it is not implemented (R25 to R28, R75 to R77). -/
def IsCounterValue (s : State) (k : Nat) (v : Word) : Prop :=
  (k = 0 → v = s.mcycle) ∧ (k = 1 → v = s.time) ∧ (k = 2 → v = s.minstret) ∧
  (∀ n : Fin 29, k = n.val + 3 → v = if n.val < s.par.nhpm then s.mhpmcounter[n] else 0#64)

theorem isCounterValue_cycle (s : State) : IsCounterValue s 0 s.mcycle :=
  ⟨fun _ => rfl, nofun, nofun, fun n h => absurd h (by omega)⟩

theorem isCounterValue_time (s : State) : IsCounterValue s 1 s.time :=
  ⟨nofun, fun _ => rfl, nofun, fun n h => absurd h (by omega)⟩

theorem isCounterValue_instret (s : State) : IsCounterValue s 2 s.minstret :=
  ⟨nofun, nofun, fun _ => rfl, fun n h => absurd h (by omega)⟩

theorem isCounterValue_event (s : State) (n : Fin 29) : IsCounterValue s (n.val + 3) (hpmCounterVal s n) := by
  refine ⟨nofun, fun h => absurd h (by omega), fun h => absurd h (by omega), fun m h => ?_⟩
  obtain rfl : m = n := Fin.ext (by omega)
  simp [hpmCounterVal, hpmImplemented]

/-- The 32 counters: three single ones and the event counters. -/
theorem counter_cases {k : Nat} (hk : k < 32) : k = 0 ∨ k = 1 ∨ k = 2 ∨ ∃ n : Fin 29, k = n.val + 3 := by
  by_cases h : k < 3
  · omega
  · exact .inr (.inr (.inr ⟨⟨k - 3, by omega⟩, by simp only; omega⟩))

/-- Each user counter address holds a register that reads the counter. -/
theorem userCounter_register (s : State) {k : Nat} (hk : k < 32) :
    ∃ c : Csr, c.addr = BitVec.ofNat 12 (0xC00 + k) ∧ IsCounterValue s k (csrRead s c) := by
  rcases counter_cases hk with rfl | rfl | rfl | ⟨n, rfl⟩
  · exact ⟨.cycle, rfl, isCounterValue_cycle s⟩
  · exact ⟨.time, rfl, isCounterValue_time s⟩
  · exact ⟨.instret, rfl, isCounterValue_instret s⟩
  · refine ⟨.hpmcounter n, ?_, isCounterValue_event s n⟩
    rw [Csr.addr, Nat.add_comm n.val 3, ← Nat.add_assoc]

/-- Each machine counter address but that of `time` holds a register that reads the counter. -/
theorem machineCounter_register (s : State) {k : Nat} (hk : k < 32) (h1 : k ≠ 1) :
    ∃ c : Csr, c.addr = BitVec.ofNat 12 (0xB00 + k) ∧ IsCounterValue s k (csrRead s c) := by
  rcases counter_cases hk with rfl | rfl | rfl | ⟨n, rfl⟩
  · exact ⟨.mcycle, rfl, isCounterValue_cycle s⟩
  · exact absurd rfl h1
  · exact ⟨.minstret, rfl, isCounterValue_instret s⟩
  · refine ⟨.mhpmcounter n, ?_, isCounterValue_event s n⟩
    rw [Csr.addr, Nat.add_comm n.val 3, ← Nat.add_assoc]

/-- A user counter passes the check for a read where the counter enables allow it (R140 item 4). -/
theorem csrCheck_userCounter {s : State} {k : Nat} (hk : k < 32) {c : Csr} (ha : c.addr = BitVec.ofNat 12 (0xC00 + k))
    (hM : s.priv ≠ .M → s.mcounteren.getLsbD k = true) (hU : s.priv = .U → s.scounteren.getLsbD k = true) :
    csrCheck s c.addr false = some c := by
  have haddr : ∀ j : Fin 32, (BitVec.ofNat 12 (0xC00 + j.val)).extractLsb' 8 2 = 0#2 ∧
      floatAddr (BitVec.ofNat 12 (0xC00 + j.val)) = false ∧
      ((BitVec.ofNat 12 (0xC00 + j.val)).extractLsb' 0 5).toNat = j.val := by decide
  obtain ⟨hlevel, hfloat, hindex⟩ := haddr ⟨k, hk⟩
  rw [← ha] at hlevel hfloat hindex
  have hp : privilegeAllows s.priv c.addr = true := by
    rw [privilegeAllows, hlevel]
    cases s.priv <;> rfl
  have he : counterEnabled s c.addr = true := by
    rw [counterEnabled, hindex]
    cases hq : s.priv <;> simp_all
  simp [csrCheck, hp, he, hfloat, Csr.ofAddr_addr]

/-- No machine counter address is that of a floating-point register. -/
theorem floatAddr_machineCounter {k : Nat} (hk : k < 32) : floatAddr (BitVec.ofNat 12 (0xB00 + k)) = false := by
  have h : ∀ j : Fin 32, floatAddr (BitVec.ofNat 12 (0xB00 + j.val)) = false := by decide
  exact h ⟨k, hk⟩

/-- Settles O34: the register at each address reads the counter, and the value is from before the step. -/
theorem userCountersShadowMachineCounters : Obligations.UserCountersShadowMachineCounters := by
  intro s rd k hk hrd reads
  have hreads : ∀ c, IsCounterValue s k (csrRead s c) → reads (csrDone s s none c rd) := fun c hv => by
    have hx : (csrDone s s none c rd).getX rd = csrRead s c := (csrDone_getX _ _ _ _ _).trans (if_neg hrd)
    simp only [reads, hx]
    exact hv
  refine ⟨fun hM hU => ?_, fun hM h1 => ?_⟩
  · obtain ⟨c, ha, hv⟩ := userCounter_register s hk
    rw [← ha]
    exact ⟨_, exec_csrrs_zero_completes (csrCheck_userCounter hk ha hM hU) rd, hreads c hv⟩
  · obtain ⟨c, ha, hv⟩ := machineCounter_register s hk h1
    have hf : floatAddr c.addr = false := ha ▸ floatAddr_machineCounter hk
    rw [← ha]
    exact ⟨_, exec_csrrs_zero_completes (csrCheck_machine hM hf nofun) rd, hreads c hv⟩

/-! ## Event counters and selectors -/

theorem eventCount_written (s : State) (n : Fin 29) : eventCount s (some (.mhpmcounter n)) n = 0 := by
  simp [eventCount]

theorem eventCount_selector_written (s : State) (n : Fin 29) :
    eventCount s (some (.mhpmevent n)) n = eventCount s none n := by
  simp [eventCount]

/-- CSRRW of an event counter or a selector in M-mode completes. -/
theorem exec_csrrw_event {s : State} (hM : s.priv = .M) {c : Csr} {n : Fin 29}
    (hc : c = .mhpmcounter n ∨ c = .mhpmevent n) (rd rs1 : RegNum) :
    exec (.csrrw rd c.addr rs1) s = .next (csrDone s (csrWrite s c (s.getX rs1)) (some c) c rd) := by
  have haddr : ∀ n : Fin 29,
      (floatAddr (Csr.mhpmcounter n).addr = false ∧ readOnlyAddr (Csr.mhpmcounter n).addr = false) ∧
      (floatAddr (Csr.mhpmevent n).addr = false ∧ readOnlyAddr (Csr.mhpmevent n).addr = false) := by decide
  obtain ⟨⟨hfc, hwc⟩, hfe, hwe⟩ := haddr n
  rcases hc with rfl | rfl
  · exact exec_csrrw_machine hM hfc hwc nofun rd rs1
  · exact exec_csrrw_machine hM hfe hwe nofun rd rs1

/-- A write of an implemented counter is stored (R77). -/
theorem csrWrite_mhpmcounter_stored {s : State} {n : Fin 29} (h : n.val < s.par.nhpm) (v : Word) :
    (csrWrite s (.mhpmcounter n) v).mhpmcounter[n] = v := by
  simp [csrWrite, hpmImplemented, h]

/-- A write of an implemented selector is stored, and leaves the counters (R59). -/
theorem csrWrite_mhpmevent_stored {s : State} {n : Fin 29} (h : n.val < s.par.nhpm) (v : Word) :
    (csrWrite s (.mhpmevent n) v).mhpmevent[n] = v ∧ (csrWrite s (.mhpmevent n) v).mhpmcounter = s.mhpmcounter := by
  simp [csrWrite, hpmImplemented, h]

theorem hpmCounterVal_csrDone (s w : State) (o : Option Csr) (c : Csr) (rd : RegNum) (n : Fin 29) :
    hpmCounterVal (csrDone s w o c rd) n =
      if n.val < w.par.nhpm then w.mhpmcounter[n] + BitVec.ofNat 64 (eventCount s o n) else 0#64 := by
  obtain ⟨-, -, hstep, -⟩ := csrDone_steps s w o c rd
  rw [hpmCounterVal, (hstep n).1]
  simp only [hpmImplemented, decide_eq_true_eq]
  rfl

theorem hpmEventVal_csrDone (s w : State) (o : Option Csr) (c : Csr) (rd : RegNum) (n : Fin 29) :
    hpmEventVal (csrDone s w o c rd) n =
      if n.val < w.par.nhpm then w.mhpmevent[n] |||
        (if 2 ^ 64 ≤ w.mhpmcounter[n].toNat + eventCount s o n then 0x8000000000000000#64 else 0#64)
      else 0#64 := by
  obtain ⟨-, -, hstep, -⟩ := csrDone_steps s w o c rd
  rw [hpmEventVal, (hstep n).2]
  simp only [hpmImplemented, decide_eq_true_eq]
  rfl

/-- Settles O37: an implemented one holds what was written before the counters step; the others read 0. -/
theorem unimplementedEventCountersAreReadOnlyZero : Obligations.UnimplementedEventCountersAreReadOnlyZero := by
  intro s rd rs1 n hM
  refine ⟨⟨_, exec_csrrw_event hM (.inl rfl) rd rs1, ?_⟩, ⟨_, exec_csrrw_event hM (.inr rfl) rd rs1, ?_⟩⟩
  · refine (hpmCounterVal_csrDone s _ _ _ rd n).trans ?_
    obtain ⟨hpar, -⟩ := csrWrite_frame s (.mhpmcounter n) (s.getX rs1)
    rw [hpar, eventCount_written, BitVec.add_zero]
    split
    · exact csrWrite_mhpmcounter_stored ‹_› _
    · rfl
  · refine (hpmEventVal_csrDone s _ _ _ rd n).trans ?_
    obtain ⟨hpar, -⟩ := csrWrite_frame s (.mhpmevent n) (s.getX rs1)
    rw [hpar, eventCount_selector_written]
    split
    · obtain ⟨hevent, hcounter⟩ := csrWrite_mhpmevent_stored ‹_› (s.getX rs1)
      rw [hevent, hcounter]
    · rfl

/-! ## `scountovf` -/

/-- A fold that sets flags sets the bit of every flag that is on. -/
theorem foldl_flagAt_getLsbD (f : Fin 29 → Bool) (l : List (Fin 29)) (acc : Word) {k : Nat} (hk : k < 64) :
    (l.foldl (fun acc n => acc ||| flagAt (f n) (n.val + 3)) acc).getLsbD k =
      (acc.getLsbD k || l.any fun n => f n && decide (k = n.val + 3)) := by
  induction l generalizing acc with
  | nil => simp
  | cons n l ih =>
    rw [List.foldl_cons, ih, BitVec.getLsbD_or, flagAt_getLsbD _ _ _ hk, List.any_cons, Bool.or_assoc]

theorem overflowShown_iff (s : State) (n : Fin 29) :
    overflowShown s n = true ↔ n.val < s.par.nhpm ∧ s.mhpmevent[n].getLsbD 63 = true ∧
      (s.priv = .S → s.mcounteren.getLsbD (n.val + 3) = true) := by
  unfold overflowShown hpmEventVal
  by_cases h : n.val < s.par.nhpm
  · cases s.priv <;> simp [hpmImplemented, h]
  · simp [hpmImplemented, h]

/-- Settles O38: bit `k` is set by the flag of the counter `k`, if there is one. -/
theorem scountovfShowsOverflowBits : Obligations.ScountovfShowsOverflowBits := by
  intro s k hk
  have hbit : (csrRead s .scountovf).getLsbD k =
      (List.finRange 29).any fun n => overflowShown s n && decide (k = n.val + 3) := by
    refine (foldl_flagAt_getLsbD (overflowShown s) (List.finRange 29) 0#64 hk).trans ?_
    simp
  rw [hbit, List.any_eq_true]
  refine exists_congr fun n => ?_
  simp only [List.mem_finRange, true_and, Bool.and_eq_true, decide_eq_true_eq, overflowShown_iff]
  constructor
  · rintro ⟨⟨himpl, hof, henabled⟩, rfl⟩
    exact ⟨rfl, himpl, hof, henabled⟩
  · rintro ⟨rfl, himpl, hof, henabled⟩
    exact ⟨⟨himpl, hof, henabled⟩, rfl⟩

/-! ## The information registers -/

/-- Settles O39: a read returns the parameter, and the write of `misa` does nothing. -/
theorem constantRegistersReadTheirParameters : Obligations.ConstantRegistersReadTheirParameters := by
  intro s rd rs1 hM hrd
  refine ⟨fun c v hcv => ?_, ?_⟩
  · have hread : ∀ c : Csr, floatAddr c.addr = false →
        ∃ t, exec (.csrrs rd c.addr 0#5) s = .next t ∧ t.getX rd = csrRead s c := fun c hf =>
      ⟨_, exec_csrrs_zero_completes (csrCheck_machine hM hf nofun) rd, (csrDone_getX _ _ _ _ _).trans (if_neg hrd)⟩
    simp only [List.mem_cons, Prod.mk.injEq, List.not_mem_nil, or_false] at hcv
    rcases hcv with ⟨rfl, rfl⟩ | ⟨rfl, rfl⟩ | ⟨rfl, rfl⟩ | ⟨rfl, rfl⟩ | ⟨rfl, rfl⟩ | ⟨rfl, rfl⟩
    all_goals exact hread _ rfl
  · have h := exec_csrrw_machine hM (c := .misa) rfl rfl (by decide) rd rs1
    change CompletesAccess (exec (.csrrw rd Csr.misa.addr rs1) s) s .misa rd s
    rw [h]
    exact csrDone_completes _ _ rd rfl rfl

/-! ## The debug registers -/

/-- The seven debug and trace registers (section 8 of 10_state.md). -/
def debugCsrs : List Csr := [.tselect, .tdata1, .tdata2, .tdata3, .tinfo, .tcontrol, .mcontext]

/-- Under "no triggers" a debug register reads 0 and ignores writes. -/
theorem debug_inert {s : State} (h : s.par.triggers = .noTriggers) {c : Csr} (hc : c ∈ debugCsrs) (v : Word) :
    csrRead s c = 0#64 ∧ csrWrite s c v = s := by
  simp only [debugCsrs, List.mem_cons, List.not_mem_nil, or_false] at hc
  rcases hc with rfl | rfl | rfl | rfl | rfl | rfl | rfl
  all_goals simp only [csrRead, debugVal, csrWrite, debugStore, h, and_self]

/-- Settles O40: the access completes, and what it reads and writes is `debug_inert`. -/
theorem debugRegistersAreInertWithoutTriggers : Obligations.DebugRegistersAreInertWithoutTriggers := by
  intro s rd rs1 c hc hM
  have haddr : ∀ c ∈ debugCsrs, floatAddr c.addr = false ∧ readOnlyAddr c.addr = false ∧ c ≠ .mstatus := by decide
  obtain ⟨hf, hw, hm⟩ := haddr c hc
  refine ⟨_, exec_csrrw_machine hM hf hw hm rd rs1, fun hn => ?_⟩
  obtain ⟨hread, hwrite⟩ := debug_inert hn hc (s.getX rs1)
  rw [hwrite]
  refine ⟨by rw [csrDone_getX, hread, ite_self], ?_⟩
  obtain ⟨_, ht, -, -, -, hframe⟩ := csrDone_completes (s := s) (w := s) (some c) c rd rfl rfl
  cases ht
  exact hframe.trans (withCountersOf_self s)

end Sys2Proof.Machine
end

section
/-! PROOFS. Memory at a step: a fetch that is not backed (20_memory.md R107), and that no step stores (R100) or changes a
parameter (00_scope.md R5). -/

namespace Sys2Proof.Machine

/-! ## A fetch that is not backed -/

/-- The fetch reads all four bytes, so that one of them is missing is enough (log 10). -/
theorem fetchBytes_eq_none {s : State} {k : Nat} (hk : k < 4) (h : s.mem.read (s.pc + BitVec.ofNat 64 k) = none) :
    fetchBytes s = none := by
  unfold fetchBytes
  split
  case h_1 h0 h1 h2 h3 =>
    have hk' : k = 0 ∨ k = 1 ∨ k = 2 ∨ k = 3 := by omega
    rcases hk' with rfl | rfl | rfl | rfl
    · rw [BitVec.add_zero, h0] at h
      cases h
    · cases h1.symm.trans h
    · cases h2.symm.trans h
    · cases h3.symm.trans h
  case h_2 => rfl

theorem runInstruction_of_fetchBytes_none {s : State} (hf : fetchBytes s = none) :
    runInstruction s = raise .instrAccessFault s.pc s := by
  simp only [runInstruction, hf]

/-- Settles O8: the platform leaves memory and `pc` alone, so the fetch fails and `raise_takes` gives the level. -/
theorem unbackedFetchTakesAccessFault : Obligations.UnbackedFetchTakesAccessFault := by
  intro s k hk hw hp hread
  have hf : fetchBytes (platformActs s) = none :=
    (fetchBytes_platformActs s).trans (fetchBytes_eq_none hk hread)
  rw [step_eq_runInstruction hw hp, runInstruction_of_fetchBytes_none hf, platformActs_pc]
  exact raise_takes (platformActs s) .instrAccessFault s.pc

/-! ## Memory and the parameters over a step -/

/-- Taking a trap stores nothing and changes no parameter (R191). -/
theorem takeTrap_mem_par {s t : State} {b : Bool} {k : Nat} {info : Word} (h : takeTrap b k info s = .next t) :
    t.mem = s.mem ∧ t.par = s.par := by
  rcases takeTrap_cases h with ⟨_, rfl⟩ | ⟨_, rfl⟩
  · exact ⟨rfl, rfl⟩
  · exact ⟨rfl, rfl⟩

/-- No instruction stores or changes a parameter (R100, R5). -/
theorem exec_mem_par {i : Instr} {s t : State} (h : exec i s = .next t) : t.mem = s.mem ∧ t.par = s.par := by
  rcases exec_cases h with ⟨e, info, hr⟩ | ⟨a, rd, c, ho, hc, _, _⟩ | ⟨_, _, rfl⟩ | ⟨_, _, rfl⟩ | ⟨_, rfl | rfl⟩
  case inl => exact takeTrap_mem_par hr
  case inr.inl =>
    obtain ⟨hpar, -, -, -, hmem⟩ := csrWriteIf_frame i s c
    rw [eq_csrDone_of_exec ho hc h]
    exact ⟨hmem, hpar⟩
  all_goals exact ⟨rfl, rfl⟩

theorem hartActs_mem_par {s t : State} (h : hartActs s = .next t) : t.mem = s.mem ∧ t.par = s.par := by
  rcases hartActs_cases h with ⟨b, k, info, htrap⟩ | ⟨_, rfl | rfl⟩ | ⟨_, i, hexec⟩
  · exact takeTrap_mem_par htrap
  · exact ⟨rfl, rfl⟩
  · exact ⟨rfl, rfl⟩
  · exact exec_mem_par hexec

/-- Settles O9: neither the platform nor anything the hart can then do stores or changes a parameter. -/
theorem stepKeepsMemoryAndParameters : Obligations.StepKeepsMemoryAndParameters := by
  intro s t h
  obtain ⟨hmem, hpar⟩ := hartActs_mem_par h
  rw [platformActs_mem] at hmem
  rw [platformActs_par] at hpar
  exact ⟨fun a => congrArg (Memory.read · a) hmem, hpar⟩

end Sys2Proof.Machine
end

section
/-! PROOFS. Words, bytes and the instructions they stand for (30_encoding.md R120 to R126): the decoder and the assembler
are inverse to each other, on words and on bytes. -/

namespace Sys2Proof

/-! ## The fields of a word -/

@[simp] theorem opcodeField_systemWord (csr : CsrAddr) (rs1 : BitVec 5) (f : BitVec 3) (rd : RegNum) :
    opcodeField (systemWord csr rs1 f rd) = 0x73#7 :=
  have ⟨h, _, _, _, _⟩ := systemWord_fields csr rs1 f rd
  h

@[simp] theorem rdField_systemWord (csr : CsrAddr) (rs1 : BitVec 5) (f : BitVec 3) (rd : RegNum) :
    rdField (systemWord csr rs1 f rd) = rd :=
  have ⟨_, h, _, _, _⟩ := systemWord_fields csr rs1 f rd
  h

@[simp] theorem funct3Field_systemWord (csr : CsrAddr) (rs1 : BitVec 5) (f : BitVec 3) (rd : RegNum) :
    funct3Field (systemWord csr rs1 f rd) = f :=
  have ⟨_, _, h, _, _⟩ := systemWord_fields csr rs1 f rd
  h

@[simp] theorem rs1Field_systemWord (csr : CsrAddr) (rs1 : BitVec 5) (f : BitVec 3) (rd : RegNum) :
    rs1Field (systemWord csr rs1 f rd) = rs1 :=
  have ⟨_, _, _, h, _⟩ := systemWord_fields csr rs1 f rd
  h

@[simp] theorem csrField_systemWord (csr : CsrAddr) (rs1 : BitVec 5) (f : BitVec 3) (rd : RegNum) :
    csrField (systemWord csr rs1 f rd) = csr :=
  have ⟨_, _, _, _, h⟩ := systemWord_fields csr rs1 f rd
  h

/-- The five fields of the SYSTEM form cover the word: no bit lies outside them (R121). -/
theorem fields_append (w : BitVec 32) :
    csrField w ++ rs1Field w ++ funct3Field w ++ rdField w ++ opcodeField w = w := by
  ext k hk
  simp only [csrField, rs1Field, funct3Field, rdField, opcodeField, BitVec.getElem_append, BitVec.getElem_extractLsb']
  interval_cases k <;> simp [BitVec.getLsbD_eq_getElem]

/-- A word with the SYSTEM opcode is assembled from its own fields. -/
theorem systemWord_of_fields {w : BitVec 32} {f : BitVec 3} (hop : opcodeField w = 0x73#7) (hf : funct3Field w = f) :
    systemWord (csrField w) (rs1Field w) f (rdField w) = w := by
  rw [systemWord, ← hf, ← hop]
  exact fields_append w

/-! ## Words -/

theorem encode_of_decodeFixed {w : BitVec 32} {i : Instr} (h : decodeFixed w = some i) : encode i = w := by
  unfold decodeFixed at h
  split_ifs at h with hw hw hw hw hw <;>
  · cases h
    rw [hw]
    decide

/-- A word that decodes is the word of what it decodes to: every row leaves no bit unread (R123, R124). -/
theorem encode_of_decodeWord {w : BitVec 32} {i : Instr} (h : decodeWord w = some i) : encode i = w := by
  unfold decodeWord at h
  split_ifs at h with hop hf hf hf hf hf hf hf
  pick_goal 7
  · exact encode_of_decodeFixed h
  all_goals
    cases h
    exact systemWord_of_fields hop hf

/-- The rows exclude each other, so the word of an instruction is read by its own row (R123, R124). -/
@[simp] theorem decodeWord_encode (i : Instr) : decodeWord (encode i) = some i := by
  cases i
  case ecall | ebreak | sret | mret | wfi => decide
  all_goals simp [decodeWord, encode]

theorem opcodeField_encode (i : Instr) : opcodeField (encode i) = 0x73#7 := by
  cases i <;> exact opcodeField_systemWord _ _ _ _

/-! ## Bytes -/

theorem decode_of_compressed {b0 b1 : Byte} {rest : List Byte} (h : b0.extractLsb' 0 2 ≠ 3#2) :
    decode (b0 :: b1 :: rest) = .compressed (b1 ++ b0) := by
  simp only [decode, if_neg h]

theorem decode_of_notInTable {b0 b1 b2 b3 : Byte} {rest : List Byte} (h : b0.extractLsb' 0 2 = 3#2)
    (hw : decodeWord (b3 ++ b2 ++ b1 ++ b0) = none) :
    decode (b0 :: b1 :: b2 :: b3 :: rest) = .notInTable (b3 ++ b2 ++ b1 ++ b0) := by
  simp only [decode, if_pos h, hw]

theorem decode_of_decodeWord {b0 b1 b2 b3 : Byte} {rest : List Byte} {i : Instr} (h : b0.extractLsb' 0 2 = 3#2)
    (hw : decodeWord (b3 ++ b2 ++ b1 ++ b0) = some i) : decode (b0 :: b1 :: b2 :: b3 :: rest) = .instr i rest := by
  simp only [decode, if_pos h, hw]

/-- Bytes decode to an instruction only as the four bytes of a word that does, with the rest after them. -/
theorem bytes_of_decode_instr {bytes rest : List Byte} {i : Instr} (h : decode bytes = .instr i rest) :
    ∃ w, decodeWord w = some i ∧ bytes = wordBytes w ++ rest := by
  unfold decode at h
  split at h
  case h_2 => cases h
  case h_1 b0 b1 tail =>
    split_ifs at h
    split at h
    case h_2 => cases h
    case h_1 b2 b3 tail =>
      split at h
      case h_2 => cases h
      case h_1 hw =>
        cases h
        exact ⟨_, hw, by rw [wordBytes_append]; rfl⟩

/-- The first byte of an instruction shows a 32-bit one: bits 1:0 are `0b11` (R120). -/
theorem encode_low_bits (i : Instr) : ((encode i).extractLsb' 0 8).extractLsb' 0 2 = 3#2 := by
  have h : ((encode i).extractLsb' 0 8).extractLsb' 0 2 = (opcodeField (encode i)).extractLsb' 0 2 := by
    simp [opcodeField, BitVec.extractLsb'_extractLsb'_of_le]
  rw [h, opcodeField_encode]
  rfl

/-- Settles O4: the low bits of the first byte ask for four bytes, these put together again are the instruction's word,
and `decodeWord_encode` reads it. -/
theorem decodeOfEncode : Obligations.DecodeOfEncode := by
  intro i rest
  refine decode_of_decodeWord (encode_low_bits i) ?_
  rw [word_of_bytes, decodeWord_encode]

/-- Settles O5: the four bytes read are those of a word that decodes, which `encode_of_decodeWord` says is the
instruction's. -/
theorem encodeOfDecode : Obligations.EncodeOfDecode := by
  intro bytes rest i h
  obtain ⟨w, hw, hbytes⟩ := bytes_of_decode_instr h
  rw [hbytes, encodeBytes, encode_of_decodeWord hw]

end Sys2Proof
end

section
/-! PROOFS. A fetch of bytes that are no instruction of the table (30_encoding.md R120, R125). -/

namespace Sys2Proof.Machine

theorem runInstruction_of_compressed {s : State} {bytes : List Byte} {half : BitVec 16} (hf : fetchBytes s = some bytes)
    (hd : decode bytes = .compressed half) :
    runInstruction s = if s.par.hasC then .refused .compressedInstruction
      else raise .illegalInstruction (half.zeroExtend 64) s := by
  simp only [runInstruction, hf, hd]

theorem runInstruction_of_notInTable {s : State} {bytes : List Byte} {w : BitVec 32} (hf : fetchBytes s = some bytes)
    (hd : decode bytes = .notInTable w) : runInstruction s = .refused .wordNotInTable := by
  simp only [runInstruction, hf, hd]

/-- Settles O7: the platform leaves the fetched bytes and `HAS_C` alone, so the boundary reduces to what the decoder says
of the four bytes; `raise_takes` gives the level of the trap. -/
theorem unlistedBytesStopOrTrap : Obligations.UnlistedBytesStopOrTrap := by
  intro s b0 b1 b2 b3 hw hp h0 h1 h2 h3
  have hf : fetchBytes (platformActs s) = some [b0, b1, b2, b3] :=
    (fetchBytes_platformActs s).trans (fetchBytes_eq_some h0 h1 h2 h3)
  rw [step_eq_runInstruction hw hp]
  refine ⟨fun hlow hC => ?_, fun hlow hC => ?_, fun hlow hnone => ?_⟩
  · rw [runInstruction_of_compressed hf (decode_of_compressed hlow), platformActs_par, hC]
    rfl
  · rw [runInstruction_of_compressed hf (decode_of_compressed hlow), platformActs_par, hC]
    exact raise_takes (platformActs s) .illegalInstruction _
  · exact runInstruction_of_notInTable hf (decode_of_notInTable hlow hnone)

end Sys2Proof.Machine
end

section
/-! PROOFS. CSR access (40_csr_access.md R140 to R149): the five items of the access check, and what each of the six
instructions completes with. -/

namespace Sys2Proof.Machine

/-! ## The five items of the access check -/

theorem privilegeAllows_iff (p : Priv) (a : CsrAddr) :
    privilegeAllows p a = true ↔ (a.extractLsb' 8 2).toNat ≤ p.code.toNat := by
  simp [privilegeAllows, BitVec.ule]

theorem readOnlyAddr_iff (a : CsrAddr) : readOnlyAddr a = true ↔ a.extractLsb' 10 2 = 3#2 := beq_iff_eq

theorem userCounterAddr_iff (a : CsrAddr) : userCounterAddr a = true ↔ 0xC00 ≤ a.toNat ∧ a.toNat ≤ 0xC1F := by
  have hlt := a.isLt
  rw [userCounterAddr, beq_iff_eq, ← BitVec.toNat_inj, BitVec.extractLsb'_toNat, Nat.shiftRight_eq_div_pow,
    BitVec.toNat_ofNat]
  omega

theorem floatAddr_iff (a : CsrAddr) :
    floatAddr a = true ↔ a = 0x001#12 ∨ a = 0x002#12 ∨ a = 0x003#12 := by
  simp [floatAddr, or_assoc]

/-- The enables asked for a user counter are those of its number, `mcounteren` below M-mode and `scounteren` in
U-mode. -/
theorem counterEnabled_iff (s : State) {a : CsrAddr} (h : userCounterAddr a = true) :
    counterEnabled s a = true ↔
      (s.priv ≠ .M → s.mcounteren.getLsbD (a.toNat - 0xC00) = true) ∧
      (s.priv = .U → s.scounteren.getLsbD (a.toNat - 0xC00) = true) := by
  obtain ⟨hlo, hhi⟩ := (userCounterAddr_iff a).1 h
  have hindex : (a.extractLsb' 0 5).toNat = a.toNat - 0xC00 := by
    rw [BitVec.extractLsb'_toNat, Nat.shiftRight_zero]
    omega
  simp only [counterEnabled, hindex]
  cases s.priv <;> simp

/-- The check passes exactly when the register is listed and each of the four conditions of the guard holds. -/
theorem csrCheck_eq_some_iff {s : State} {a : CsrAddr} {w : Bool} {c : Csr} :
    csrCheck s a w = some c ↔
      Csr.ofAddr a = some c ∧ privilegeAllows s.priv a = true ∧ ¬ (w = true ∧ readOnlyAddr a = true) ∧
      (userCounterAddr a = true → counterEnabled s a = true) ∧ (floatAddr a = true → s.mstatus.fs ≠ 0#2) := by
  constructor
  · intro h
    obtain ⟨hlisted, hpriv, hwrite, hcounter, hfloat⟩ := csrCheck_some h
    exact ⟨hlisted, hpriv, fun ⟨hw, hro⟩ => Bool.false_ne_true ((hwrite hw).symm.trans hro), hcounter, hfloat⟩
  · rintro ⟨hlisted, hpriv, hwrite, hcounter, hfloat⟩
    have hwrite' : (w && readOnlyAddr a) = false := by simpa using hwrite
    have hcounter' : (!userCounterAddr a || counterEnabled s a) = true := by simpa [imp_iff_not_or] using hcounter
    have hfloat' : (floatAddr a && s.mstatus.fs == 0#2) = false := by simpa using hfloat
    rw [csrCheck, hpriv, hwrite', hcounter', hfloat']
    exact hlisted

/-- Settles O12: each item of the model's check says what R140 says of the address. -/
theorem accessCheckIsTheFiveItems : Obligations.AccessCheckIsTheFiveItems := by
  intro s a isWrite c
  rw [csrCheck_eq_some_iff, Csr.ofAddr_eq_some, privilegeAllows_iff, readOnlyAddr_iff, floatAddr_iff,
    forall_congr' (counterEnabled_iff s), userCounterAddr_iff, and_imp]

/-- Settles O13: a failed check raises Illegal instruction, which `raise_takes` gives the level of. -/
theorem failedCheckTakesIllegalInstruction : Obligations.FailedCheckTakesIllegalInstruction :=
  fun _ _ _ _ ho hc => exec_csr_takes_illegal ho hc

/-! ## What the six instructions complete with -/

/-- A CSR instruction whose check passes and whose write R50 does not refuse completes with that write. -/
theorem exec_csr_completesAccess {i : Instr} {a : CsrAddr} {rd : RegNum} {s : State} {c : Csr}
    (ho : csrOperands i = some (a, rd)) (hc : csrCheck s a (writesCsr i) = some c)
    (hr : writesCsr i = true → c = .mstatus → csrWriteValue i s .mstatus &&& 0x500000#64 = 0#64) :
    CompletesAccess (exec i s) s c rd (csrWriteIf i s c) := by
  have hallowed : (writesCsr i && csrWriteRefused c (csrWriteValue i s c)) = false := by
    by_cases hm : c = .mstatus
    · subst hm
      simpa [csrWriteRefused, statusTrapMask] using hr
    · rw [csrWriteRefused_of_ne hm, Bool.and_false]
  obtain ⟨-, -, hpc, hx, -⟩ := csrWriteIf_frame i s c
  rw [exec_csr_eq_csrDone ho hc hallowed]
  exact csrDone_completes _ c rd hx hpc

/-- An instruction that always writes (R143, R146). -/
theorem exec_write_completesAccess {i : Instr} {a : CsrAddr} {rd : RegNum} {s : State} {c : Csr}
    (ho : csrOperands i = some (a, rd)) (hw : writesCsr i = true) (hc : csrCheck s a true = some c)
    (hr : c = .mstatus → csrWriteValue i s .mstatus &&& 0x500000#64 = 0#64) :
    CompletesAccess (exec i s) s c rd (csrWrite s c (csrWriteValue i s c)) := by
  have h := exec_csr_completesAccess ho (hw ▸ hc) fun _ => hr
  rwa [csrWriteIf, if_pos hw] at h

/-- A read-modify-write: a write unless its source operand, a register number or an immediate, is 0 (R149). -/
theorem exec_rmw_completesAccess {i : Instr} {a : CsrAddr} {rd : RegNum} {src : BitVec 5} {s : State} {c : Csr}
    (ho : csrOperands i = some (a, rd)) (hw : writesCsr i = (src != 0#5)) (hc : csrCheck s a (src != 0#5) = some c)
    (hr : src ≠ 0#5 → c = .mstatus → csrWriteValue i s .mstatus &&& 0x500000#64 = 0#64) :
    CompletesAccess (exec i s) s c rd (if src = 0#5 then s else csrWrite s c (csrWriteValue i s c)) := by
  have h := exec_csr_completesAccess ho (hw ▸ hc) fun hwrites => hr (bne_iff_ne.1 (hw ▸ hwrites))
  rw [csrWriteIf, hw] at h
  by_cases h0 : src = 0#5
  · simpa [h0] using h
  · simpa [h0] using h

/-- The latch `SEIP_sw` is a bit of the word stored in `mip`. -/
theorem mip_and_latch (s : State) : s.mip &&& 0x200#64 = mipStored s &&& 0x200#64 := by
  have hmask : intMask s.par &&& 0x200#64 = 0x200#64 := by
    rw [intMask, BitVec.and_or_distrib_right, BitVec.and_assoc]
    simp
  rw [mipStored, BitVec.and_assoc, hmask]

/-- The old value of a read-modify-write is the value read, and for `mip` the stored word: putting the latch in place of
bit 9 takes `ext_seip` out again (R65). -/
theorem rmwOld_eq_csrRmwBase (s : State) (c : Csr) : rmwOld s c = csrRmwBase s c := by
  cases c
  case mip =>
    calc rmwOld s .mip = (mipRead s &&& ~~~0x200#64) ||| (mipStored s &&& 0x200#64) := by rw [← mip_and_latch]; rfl
      _ = mergeBits (flagAt true 9) (mipStored s ||| flagAt s.extSeip 9) (mipStored s) := rfl
      _ = mipStored s := by rw [mergeBits_flag, mergeBits_self]
  all_goals rfl

/-! ## The immediate forms and the bits of R50 -/

/-- An immediate holds neither bit 20 nor bit 22. -/
theorem uimm_and_trapControl : ∀ u : BitVec 5, u.zeroExtend 64 &&& 0x500000#64 = 0#64 := by decide

/-- Setting the bits of an immediate sets neither of the two. -/
theorem or_uimm_and_trapControl (v : Word) (u : BitVec 5) :
    (v ||| u.zeroExtend 64) &&& 0x500000#64 = v &&& 0x500000#64 := by
  rw [BitVec.and_or_distrib_right, uimm_and_trapControl, BitVec.or_zero]

/-- Clearing the bits of an immediate clears neither of the two. -/
theorem and_not_uimm_and_trapControl (v : Word) (u : BitVec 5) :
    v &&& ~~~u.zeroExtend 64 &&& 0x500000#64 = v &&& 0x500000#64 := by
  have h : ∀ u : BitVec 5, ~~~u.zeroExtend 64 &&& 0x500000#64 = 0x500000#64 := by decide
  rw [BitVec.and_assoc, h]

/-! ## The six instructions -/

/-- Settles O15: CSRRW always writes, and the value is the source. -/
theorem csrrwReadsAndWrites : Obligations.CsrrwReadsAndWrites := by
  intro s rd rs1 a c hc hr
  exact exec_write_completesAccess (i := .csrrw rd a rs1) rfl rfl hc fun hm => not_not.1 fun hv => hr ⟨hm, hv⟩

/-- Settles O16: the value written is formed from `csrRmwBase`, which is the statement's `rmwOld`. -/
theorem csrrsReadsAndSets : Obligations.CsrrsReadsAndSets := by
  intro s rd rs1 a c hc hr
  rw [rmwOld_eq_csrRmwBase]
  exact exec_rmw_completesAccess (i := .csrrs rd a rs1) rfl rfl hc hr

/-- Settles O17: as O16, with the bits cleared. -/
theorem csrrcReadsAndClears : Obligations.CsrrcReadsAndClears := by
  intro s rd rs1 a c hc hr
  rw [rmwOld_eq_csrRmwBase]
  exact exec_rmw_completesAccess (i := .csrrc rd a rs1) rfl rfl hc hr

/-- Settles O18: an immediate holds no bit whose setting R50 refuses. -/
theorem csrrwiReadsAndWrites : Obligations.CsrrwiReadsAndWrites := by
  intro s rd uimm a c hc
  rw [BitVec.ofNat_toNat]
  exact exec_write_completesAccess (i := .csrrwi rd a uimm) rfl rfl hc fun _ => uimm_and_trapControl uimm

/-- Settles O19: bits 20 and 22 of the value written are those of the value read. -/
theorem csrrsiReadsAndSets : Obligations.CsrrsiReadsAndSets := by
  intro s rd uimm a c hc hr
  rw [rmwOld_eq_csrRmwBase, BitVec.ofNat_toNat]
  exact exec_rmw_completesAccess (i := .csrrsi rd a uimm) rfl rfl hc fun h0 hm =>
    (or_uimm_and_trapControl _ uimm).trans (hr h0 hm)

/-- Settles O20: as O19, with the bits cleared. -/
theorem csrrciReadsAndClears : Obligations.CsrrciReadsAndClears := by
  intro s rd uimm a c hc hr
  rw [rmwOld_eq_csrRmwBase, BitVec.ofNat_toNat]
  exact exec_rmw_completesAccess (i := .csrrci rd a uimm) rfl rfl hc fun h0 hm =>
    (and_not_uimm_and_trapControl _ uimm).trans (hr h0 hm)

end Sys2Proof.Machine
end

section
/-! PROOFS. Environment calls, trap returns and `WFI` (41_trap_system.md R160 to R164): the two calls always trap, a
return completes in its modes and is illegal below them, and a `WFI` completes, waits or times out. -/

namespace Sys2Proof.Machine

/-- Illegal instruction is taken at the level of R195, with the instruction's word as informative value (R194). -/
theorem raiseIllegal_takes {i : Instr} {w : Word} (hw : (encode i).zeroExtend 64 = w) (s : State) :
    TakesException (raiseIllegal i s) 2 w s :=
  hw ▸ raise_takes s .illegalInstruction _

/-- An instruction that retires and writes no counter adds 1 to `minstret`, unless it is inhibited (R76). -/
theorem retire_minstret (pre post : State) :
    (retire pre none post).minstret =
      if pre.mcountinhibit.getLsbD 2 then post.minstret else post.minstret + 1#64 := by
  obtain ⟨-, hminstret, -⟩ := stepCounters_steps pre none true post
  simpa [retire] using hminstret

/-! ## `ECALL` and `EBREAK` -/

theorem exec_ecall_takes {s : State} {p : Priv} (hp : s.priv = p) :
    TakesException (exec .ecall s) (exceptionCode (ecallException p)) 0#64 s :=
  hp ▸ raise_takes s (ecallException s.priv) 0#64

/-- Settles O46: in each mode ECALL raises that mode's exception. -/
theorem ecallTakesEnvironmentCall : Obligations.EcallTakesEnvironmentCall := by
  refine ⟨by decide, fun s => ?_⟩
  cases hp : s.priv <;> exact exec_ecall_takes hp

/-- Settles O47: EBREAK raises Breakpoint with `pc` as informative value. -/
theorem ebreakTakesBreakpoint : Obligations.EbreakTakesBreakpoint :=
  ⟨by decide, fun s => raise_takes s .breakpoint s.pc⟩

/-! ## `MRET` and `SRET` -/

/-- The state a trap return from `s` reaches: the mode and the fields of `mstatus` it restores, the saved `pc`, and the
counters stepped. -/
def trapReturn (s : State) (m : Status) (p : Priv) (pc : Word) : State :=
  retire s none { s with mstatus := m, priv := p, pc := pc }

theorem exec_mret_of_machine {s : State} (h : s.priv = .M) :
    exec .mret s = .next (trapReturn s (statusMret s.mstatus) s.mstatus.mpp (mepcVal s)) :=
  if_pos h

theorem exec_mret_of_not_machine {s : State} (h : s.priv ≠ .M) : exec .mret s = raiseIllegal .mret s :=
  if_neg h

theorem exec_sret_of_not_user {s : State} (h : s.priv ≠ .U) :
    exec .sret s = .next (trapReturn s (statusSret s.mstatus) (sretMode s.mstatus) (sepcVal s)) :=
  if_neg h

theorem exec_sret_of_user {s : State} (h : s.priv = .U) : exec .sret s = raiseIllegal .sret s :=
  if_pos h

theorem trapReturn_minstret (s : State) (m : Status) (p : Priv) (pc : Word) :
    (trapReturn s m p pc).minstret = if s.mcountinhibit.getLsbD 2 then s.minstret else s.minstret + 1#64 :=
  retire_minstret s _

/-- A trap return changes nothing else. -/
theorem trapReturn_frame (s : State) (m : Status) (p : Priv) (pc : Word) :
    withCountersOf s { trapReturn s m p pc with priv := s.priv, mstatus := s.mstatus, pc := s.pc } = s :=
  (withCountersOf_stepCounters s s none true s).trans (withCountersOf_self s)

/-- `MRET` keeps `MPRV` only when it returns to M-mode (R160). -/
theorem statusMret_eq (m : Status) :
    statusMret m = { m with
      mie := m.mpie, mpie := true, mpp := .U, mprv := if m.mpp = .M then m.mprv else false } := by
  by_cases h : m.mpp = .M
  · simp [statusMret, h]
  · simp [statusMret, h]

/-- Settles O48: M-mode returns, the modes below it raise Illegal instruction. -/
theorem mretReturnsFromMachineTrap : Obligations.MretReturnsFromMachineTrap := by
  refine fun s => ⟨fun hM => ?_, fun hM => ?_⟩
  · exact ⟨_, exec_mret_of_machine hM, rfl, statusMret_eq s.mstatus, rfl, trapReturn_minstret s _ _ _,
      trapReturn_frame s _ _ _⟩
  · rw [exec_mret_of_not_machine hM]
    exact raiseIllegal_takes (by decide) s

/-- Settles O49: S-mode and M-mode return, U-mode raises Illegal instruction. -/
theorem sretReturnsFromSupervisorTrap : Obligations.SretReturnsFromSupervisorTrap := by
  refine fun s => ⟨fun hU => ?_, fun hU => ?_⟩
  · exact ⟨_, exec_sret_of_not_user hU, rfl, rfl, rfl, trapReturn_minstret s _ _ _, trapReturn_frame s _ _ _⟩
  · rw [exec_sret_of_user hU]
    exact raiseIllegal_takes (by decide) s

/-! ## The guards of `WFI` -/

theorem wakes_iff (s : State) : wakes s = true ↔ csrRead s .mie &&& csrRead s .mip ≠ 0#64 :=
  bne_iff_ne

theorem wfiLimited_iff (s : State) :
    wfiLimited s = true ↔ (s.priv ≠ .M ∧ s.mstatus.tw = true) ∨ s.priv = .U := by
  simp [wfiLimited]

/-- A `WFI` begins to wait only where nothing wakes it. -/
theorem wfiStartsWait_iff (s : State) :
    wfiStartsWait s = true ↔ Config.wfiWaits s.draws = true ∧ ¬ wakes s = true := by
  simp [wfiStartsWait]

/-- Only a limited `WFI` times out at once, and with `TW_LIMIT` = 0 none begins to wait instead (log 19). -/
theorem wfiTimesOutAtOnce_iff (s : State) :
    wfiTimesOutAtOnce s = true ↔ wfiLimited s = true ∧
      (Config.wfiTimesOut s.draws = true ∨ wfiStartsWait s = true ∧ s.par.twLimit = 0) := by
  simp [wfiTimesOutAtOnce]

/-! ## `WFI` completes, waits or times out -/

/-- Nothing but the counters and what a `WFI` itself moves differs between `s` and `t`. -/
def WfiFrame (s t : State) : Prop :=
  withCountersOf s { t with pc := s.pc, waiting := s.waiting, waitSteps := s.waitSteps } = s

/-- From `s` the `WFI` completes with `t` (R164 outcome a). -/
def WfiCompletes (s t : State) : Prop :=
  WfiFrame s t ∧ t.waiting = false ∧ t.pc = s.pc + 4#64 ∧
    t.minstret = (if s.mcountinhibit.getLsbD 2 then s.minstret else s.minstret + 1#64)

/-- From `s` the `WFI` begins to wait with `t` (R164 outcome b). -/
def WfiWaits (s t : State) : Prop :=
  WfiFrame s t ∧ t.waiting = true ∧ t.pc = s.pc ∧ t.waitSteps = 0 ∧ t.minstret = s.minstret ∧
    ¬ csrRead s .mie &&& csrRead s .mip ≠ 0#64 ∧
    ((s.priv ≠ .M ∧ s.mstatus.tw = true) ∨ s.priv = .U → s.par.twLimit ≠ 0)

theorem wfiDone_frame (s : State) : WfiFrame s (wfiDone s) :=
  (withCountersOf_stepCounters s s none true s).trans (withCountersOf_self s)

theorem wfiDone_steps (s : State) : CountersStep s s none true (wfiDone s) :=
  (stepCounters_steps s none true _).of_same rfl rfl rfl rfl rfl

theorem wfiDone_completes (s : State) : WfiCompletes s (wfiDone s) :=
  ⟨wfiDone_frame s, rfl, rfl, retire_minstret s _⟩

theorem startWait_frame (s : State) : WfiFrame s (startWait s) := withCountersOf_self s

theorem startWait_waits {s : State} (hstart : wfiStartsWait s = true) (hout : ¬ wfiTimesOutAtOnce s = true) :
    WfiWaits s (startWait s) := by
  refine ⟨startWait_frame s, rfl, rfl, rfl, rfl, fun hawake => ?_, fun hlim hzero => hout ?_⟩
  · obtain ⟨-, hsleeps⟩ := (wfiStartsWait_iff s).1 hstart
    exact hsleeps ((wakes_iff s).2 hawake)
  · exact (wfiTimesOutAtOnce_iff s).2 ⟨(wfiLimited_iff s).2 hlim, .inr ⟨hstart, hzero⟩⟩

theorem exec_wfi_of_timesOut {s : State} (h : wfiTimesOutAtOnce s = true) : exec .wfi s = raiseIllegal .wfi s :=
  if_pos h

theorem exec_wfi_of_not_timesOut {s : State} (h : ¬ wfiTimesOutAtOnce s = true) :
    exec .wfi s = .next (if wfiStartsWait s then startWait s else wfiDone s) :=
  if_neg h

/-- A `WFI` that does not time out at once, and that an interrupt wakes, completes. -/
theorem exec_wfi_of_wakes {s : State} (hwakes : wakes s = true) (hout : ¬ wfiTimesOutAtOnce s = true) :
    exec .wfi s = .next (wfiDone s) := by
  have hstart : ¬ wfiStartsWait s = true := fun h => ((wfiStartsWait_iff s).1 h).2 hwakes
  rw [exec_wfi_of_not_timesOut hout, if_neg hstart]

/-- A `WFI` that does not time out at once completes or begins to wait. -/
theorem exec_wfi_completes_or_waits {s : State} (h : ¬ wfiTimesOutAtOnce s = true) :
    ∃ t, exec .wfi s = .next t ∧ (WfiCompletes s t ∨ WfiWaits s t) := by
  refine ⟨_, exec_wfi_of_not_timesOut h, ?_⟩
  split
  · exact .inr (startWait_waits ‹_› h)
  · exact .inl (wfiDone_completes s)

/-- Settles O50: only a limited `WFI` times out, and only one that nothing wakes begins to wait. -/
theorem wfiRetiresWaitsOrTimesOut : Obligations.WfiRetiresWaitsOrTimesOut := by
  intro s
  have notOut (hlim : ¬ ((s.priv ≠ .M ∧ s.mstatus.tw = true) ∨ s.priv = .U)) : ¬ wfiTimesOutAtOnce s = true := by
    rw [← wfiLimited_iff] at hlim
    exact fun hout => hlim ((wfiTimesOutAtOnce_iff s).1 hout).1
  refine ⟨fun hlim hawake => ?_, fun hlim => exec_wfi_completes_or_waits (notOut hlim), fun _ => ?_⟩
  · exact ⟨_, exec_wfi_of_wakes ((wakes_iff s).2 hawake) (notOut hlim), wfiDone_completes s⟩
  · by_cases hout : wfiTimesOutAtOnce s = true
    · rw [exec_wfi_of_timesOut hout]
      exact .inr (raiseIllegal_takes (by decide) s)
    · exact .inl (exec_wfi_completes_or_waits hout)

end Sys2Proof.Machine
end

section
/-! PROOFS. The boundary of a hart that waits (41_trap_system.md R164), and the boundary that takes an interrupt
(60_exceptions.md R188). -/

namespace Sys2Proof.Machine

/-! ## The interrupt a boundary takes -/

/-- The interrupt chosen meets the condition of one of the two levels. -/
theorem qualifies_of_pendingInterrupt {s : State} {k : Nat} (h : pendingInterrupt s = some k) :
    mTrap s k = true ∨ sTrap s k = true := by
  unfold pendingInterrupt at h
  split at h
  case h_1 j hj =>
    obtain rfl := Option.some.inj h
    exact .inl (List.find?_some hj)
  case h_2 => exact .inr (List.find?_some h)

theorem delegated_of_mTrap {s : State} {k : Nat} (h : mTrap s k = true) : delegated s true k = false := by
  simp only [mTrap, Bool.and_eq_true, Bool.not_eq_true'] at h
  obtain ⟨-, -, hdeleg⟩ := h
  simp [delegated, hdeleg]

theorem delegated_of_sTrap {s : State} {k : Nat} (h : sTrap s k = true) : delegated s true k = true := by
  have hcond := h
  simp only [sTrap, Bool.and_eq_true] at hcond
  obtain ⟨⟨hpriv, -⟩, ⟨hdeleg, -⟩, -⟩ := hcond
  simp [delegated, hpriv, hdeleg, h]

/-- The trap of the interrupt chosen is taken at the level whose condition it meets. -/
theorem takeTrap_takesInterrupt {s : State} {k : Nat} (h : pendingInterrupt s = some k) :
    TakesInterrupt (takeTrap true k 0#64 s) k s := by
  refine ⟨fun hm hv => ?_, fun hm hv => takeTrap_M (delegated_of_mTrap hm) hv 0#64⟩
  have hs : sTrap s k = true := (qualifies_of_pendingInterrupt h).resolve_left (Bool.eq_false_iff.1 hm)
  exact takeTrap_S (delegated_of_sTrap hs) hv 0#64

theorem step_eq_takeTrap {s : State} {k : Nat} (hw : s.waiting = false)
    (hp : pendingInterrupt (platformActs s) = some k) : step s = takeTrap true k 0#64 (platformActs s) := by
  simp [step, hartActs, hw, hp]

/-! ## The boundary of a hart that waits -/

theorem step_eq_waitStep {s : State} (hw : s.waiting = true) : step s = waitStep (platformActs s) :=
  if_pos ((platformActs_waiting s).trans hw)

/-- Waking ends the wait unless the wait is limited and the draw is the time-out (log 32). -/
theorem wakeEndsWait_iff (s : State) :
    wakeEndsWait s = true ↔ wakes s = true ∧ ¬ (wfiLimited s = true ∧ Config.wfiTimesOut s.draws = true) := by
  simp [wakeEndsWait, not_and_or, -not_and]

/-- Only a limited wait times out: at `TW_LIMIT` steps, or by the draw (log 19). -/
theorem waitTimesOut_iff (s : State) :
    waitTimesOut s = true ↔
      wfiLimited s = true ∧ (s.par.twLimit ≤ s.waitSteps ∨ Config.wfiTimesOut s.draws = true) := by
  simp [waitTimesOut]

theorem waitStep_eq_wfiDone {s : State} (h : wakeEndsWait s = true) : waitStep s = .next (wfiDone s) :=
  if_pos h

theorem waitStep_eq_raiseIllegal {s : State} (hwake : ¬ wakeEndsWait s = true) (hout : waitTimesOut s = true) :
    waitStep s = raiseIllegal .wfi s := by
  rw [waitStep, if_neg hwake, if_pos hout]

theorem waitStep_eq_keepWaiting {s : State} (hwake : ¬ wakeEndsWait s = true) (hout : ¬ waitTimesOut s = true) :
    waitStep s = .next (keepWaiting s) := by
  rw [waitStep, if_neg hwake, if_neg hout]

/-! ## A waiting hart wakes, goes on waiting, or times out -/

/-- The step completes the `WFI` a hart waits in, and the next step takes an interrupt that then qualifies (R164 outcome
b, log 18). -/
def WaitCompletes (s : State) : Prop :=
  ∃ t, step s = .next t ∧ t.waiting = false ∧ t.pc = s.pc + 4#64 ∧
    CountersStep (platformActs s) (platformActs s) none true t ∧ WfiFrame (platformActs s) t ∧
    ∀ k, pendingInterrupt (platformActs t) = some k →
      (platformActs t).pc = s.pc + 4#64 ∧ TakesInterrupt (step t) k (platformActs t)

/-- After the step the hart still waits, and but for the platform's action only the model's own counts have changed. -/
def WaitGoesOn (s : State) : Prop :=
  ∃ t, step s = .next t ∧ t.waiting = true ∧ t.waitSteps = s.waitSteps + 1 ∧
    { t with waitSteps := (platformActs s).waitSteps, draws := (platformActs s).draws } = platformActs s

theorem waitCompletes_of_wakeEndsWait {s : State} (hw : s.waiting = true)
    (hwake : wakeEndsWait (platformActs s) = true) : WaitCompletes s := by
  have hpc : (wfiDone (platformActs s)).pc = s.pc + 4#64 := congrArg (· + 4#64) (platformActs_pc s)
  refine ⟨_, (step_eq_waitStep hw).trans (waitStep_eq_wfiDone hwake), rfl, hpc, wfiDone_steps _, wfiDone_frame _,
    fun k hk => ⟨(platformActs_pc _).trans hpc, ?_⟩⟩
  rw [step_eq_takeTrap rfl hk]
  exact takeTrap_takesInterrupt hk

theorem waitGoesOn_of_not_timesOut {s : State} (hw : s.waiting = true)
    (hwake : ¬ wakeEndsWait (platformActs s) = true) (hout : ¬ waitTimesOut (platformActs s) = true) :
    WaitGoesOn s :=
  ⟨_, (step_eq_waitStep hw).trans (waitStep_eq_keepWaiting hwake hout), (platformActs_waiting s).trans hw,
    congrArg (· + 1) (platformActs_waitSteps s), rfl⟩

theorem step_waiting_timesOut {s : State} (hw : s.waiting = true)
    (hwake : ¬ wakeEndsWait (platformActs s) = true) (hout : waitTimesOut (platformActs s) = true) :
    TakesException (step s) 2 0x10500073#64 (platformActs s) := by
  rw [step_eq_waitStep hw, waitStep_eq_raiseIllegal hwake hout]
  exact raiseIllegal_takes (by decide) _

/-- Settles O51: what wakes the hart completes its `WFI` unless a limited wait draws the time-out; a hart that nothing
wakes times out where its wait is limited and has lasted `TW_LIMIT` steps or draws the time-out. -/
theorem waitingHartWakesHangsOrTimesOut : Obligations.WaitingHartWakesHangsOrTimesOut := by
  intro s hw b awake limited completes goesOn timesOut
  have hawake : wakes b = true ↔ awake := wakes_iff b
  have hlimited : wfiLimited b = true ↔ limited := by
    rw [wfiLimited_iff, platformActs_priv, platformActs_mstatus]
  have asleep (h : ¬ awake) : ¬ wakeEndsWait b = true := fun hwake => h (hawake.1 ((wakeEndsWait_iff b).1 hwake).1)
  refine ⟨fun ha hl => ?_, fun ha hl => ?_, fun ha hl => ?_, fun ha hl hsteps => ?_, fun ha _ _ => ?_⟩
  · exact waitCompletes_of_wakeEndsWait hw
      ((wakeEndsWait_iff b).2 ⟨hawake.2 ha, fun hdraw => hl (hlimited.1 hdraw.1)⟩)
  · by_cases hdraw : Config.wfiTimesOut b.draws = true
    · exact .inr (step_waiting_timesOut hw
        (fun hwake => ((wakeEndsWait_iff b).1 hwake).2 ⟨hlimited.2 hl, hdraw⟩)
        ((waitTimesOut_iff b).2 ⟨hlimited.2 hl, .inr hdraw⟩))
    · exact .inl (waitCompletes_of_wakeEndsWait hw
        ((wakeEndsWait_iff b).2 ⟨hawake.2 ha, fun hboth => hdraw hboth.2⟩))
  · exact waitGoesOn_of_not_timesOut hw (asleep ha) fun hout => hl (hlimited.1 ((waitTimesOut_iff b).1 hout).1)
  · have hlimit : b.par.twLimit ≤ b.waitSteps := by
      rwa [platformActs_par, platformActs_waitSteps]
    exact step_waiting_timesOut hw (asleep ha) ((waitTimesOut_iff b).2 ⟨hlimited.2 hl, .inl hlimit⟩)
  · by_cases hout : waitTimesOut b = true
    · exact .inr (step_waiting_timesOut hw (asleep ha) hout)
    · exact .inl (waitGoesOn_of_not_timesOut hw (asleep ha) hout)

end Sys2Proof.Machine
end

section
/-! PROOFS. Traps (60_exceptions.md R192 to R199): the entry of each level, the privilege a trap reaches, and its target. -/

namespace Sys2Proof.Machine

/-! ## The two entries -/

/-- Settles O41: `takeTrap_M` is the entry of R192. -/
theorem trapEntersMachineMode : Obligations.TrapEntersMachineMode := by
  intro s isIntr code info hd hv
  exact takeTrap_M hd hv info

/-- What M-mode keeps of its last trap: the registers and the `mstatus` fields an M-mode entry writes (R192). -/
def KeepsMachineTrap (s t : State) : Prop :=
  t.mepc = s.mepc ∧ t.mcause = s.mcause ∧ t.mtval = s.mtval ∧ t.mtinst = s.mtinst ∧ t.mtval2 = s.mtval2 ∧
  t.mstatus.mpie = s.mstatus.mpie ∧ t.mstatus.mie = s.mstatus.mie ∧ t.mstatus.mpp = s.mstatus.mpp

/-- The frame of an S-mode entry holds the M-level trap registers, and its `mstatus` the M-level fields (R193). -/
theorem EntersS.keepsMachineTrap {b : Bool} {k : Nat} {info : Word} {s t : State} (h : EntersS b k info s t) :
    KeepsMachineTrap s t := by
  obtain ⟨-, -, -, -, -, hstatus, -, -, -, -, hframe⟩ := h
  exact ⟨(congrArg State.mepc hframe :), (congrArg State.mcause hframe :), (congrArg State.mtval hframe :),
    (congrArg State.mtinst hframe :), (congrArg State.mtval2 hframe :), (congrArg Status.mpie hstatus :),
    (congrArg Status.mie hstatus :), (congrArg Status.mpp hstatus :)⟩

/-- Settles O42: `takeTrap_S` is the entry of R193, which keeps the M-level trap registers. -/
theorem delegatedTrapEntersSupervisorMode : Obligations.DelegatedTrapEntersSupervisorMode := by
  intro s isIntr code info hd hv
  obtain ⟨t, ht, hS⟩ := takeTrap_S hd hv info
  exact ⟨t, ht, hS, hS.keepsMachineTrap⟩

/-! ## The privilege a trap reaches -/

/-- A delegated trap occurs below M-mode, and its bit is set in the delegation register of its kind (R195). -/
theorem priv_and_bit_of_delegated {s : State} {b : Bool} {k : Nat} (h : delegated s b k = true) :
    s.priv ≠ .M ∧ (csrRead s (if b then .mideleg else .medeleg)).getLsbD k = true := by
  simp only [delegated, Bool.and_eq_true, bne_iff_ne] at h
  obtain ⟨⟨hpriv, hbit⟩, -⟩ := h
  cases b
  · exact ⟨hpriv, hbit⟩
  · exact ⟨hpriv, hbit⟩

theorem delegated_of_machine {s : State} (h : s.priv = .M) (b : Bool) (k : Nat) : delegated s b k = false :=
  Bool.eq_false_iff.2 fun hd => (priv_and_bit_of_delegated hd).1 h

/-- `medeleg` bit 11 is read-only 0, so an environment call from M-mode is never delegated (R52, R197). -/
theorem delegated_ecallFromM (s : State) : delegated s false 11 = false := by
  refine Bool.eq_false_iff.2 fun hd => ?_
  have hbit : (s.medeleg &&& medelegMask).getLsbD 11 = true := (priv_and_bit_of_delegated hd).2
  rw [BitVec.getLsbD_and, Bool.and_eq_true] at hbit
  exact absurd hbit.2 (by decide)

theorem delegated_of_deleg_zero {s : State} (he : csrRead s .medeleg = 0#64) (hi : csrRead s .mideleg = 0#64)
    (b : Bool) (k : Nat) : delegated s b k = false := by
  refine Bool.eq_false_iff.2 fun hd => ?_
  have hbit := (priv_and_bit_of_delegated hd).2
  cases b
  · simp [he] at hbit
  · simp [hi] at hbit

theorem EntersM.priv {b : Bool} {k : Nat} {info : Word} {s t : State} (h : EntersM b k info s t) : t.priv = .M := by
  obtain ⟨-, -, -, -, -, -, -, -, hpriv, -⟩ := h
  exact hpriv

theorem EntersM.keepsSupervisorTrap {b : Bool} {k : Nat} {info : Word} {s t : State} (h : EntersM b k info s t) :
    t.sepc = s.sepc ∧ t.scause = s.scause ∧ t.stval = s.stval := by
  obtain ⟨-, -, -, -, -, -, -, -, -, -, -, -, hframe⟩ := h
  exact ⟨(congrArg State.sepc hframe :), (congrArg State.scause hframe :), (congrArg State.stval hframe :)⟩

theorem EntersS.priv {b : Bool} {k : Nat} {info : Word} {s t : State} (h : EntersS b k info s t) : t.priv = .S := by
  obtain ⟨-, -, -, -, -, -, hpriv, -⟩ := h
  exact hpriv

theorem Priv.code_le_machine (p : Priv) : p.code.toNat ≤ Priv.M.code.toNat := by
  cases p <;> decide

theorem Priv.code_le_supervisor (p : Priv) : p ≠ .M → p.code.toNat ≤ Priv.S.code.toNat := by
  cases p <;> decide

theorem Priv.eq_user_or_supervisor (p : Priv) : p ≠ .M → p = .U ∨ p = .S := by
  cases p <;> decide

/-- Settles O43: a delegated trap occurs below M-mode and enters S-mode, any other enters M-mode. -/
theorem trapNeverLowersPrivilege : Obligations.TrapNeverLowersPrivilege := by
  refine ⟨fun s t isIntr code info ht => ?_, delegated_ecallFromM,
    fun s isIntr code hM => delegated_of_machine hM isIntr code⟩
  rcases takeTrap_enters ht with ⟨hd, hS⟩ | ⟨hd, hM⟩
  · have hbelow : s.priv ≠ .M := (priv_and_bit_of_delegated hd).1
    rw [hS.priv]
    refine ⟨Priv.code_le_supervisor _ hbelow, fun h => absurd h hbelow, fun he hi => ?_,
      fun _ => Priv.eq_user_or_supervisor _ hbelow⟩
    exact Bool.noConfusion (hd.symm.trans (delegated_of_deleg_zero he hi isIntr code))
  · rw [hM.priv]
    exact ⟨Priv.code_le_machine _, fun _ => ⟨rfl, hM.keepsSupervisorTrap⟩, fun _ _ => rfl, Priv.noConfusion⟩

/-! ## The target -/

/-- `BASE` of a vector is its value without the two bits of `MODE` (R56). -/
theorem toNat_and_not_three (v : Word) : (v &&& ~~~3#64).toNat = 4 * (v.toNat / 4) := by
  have hdisjoint : v &&& ~~~3#64 &&& (v &&& 3#64) = 0#64 := by
    rw [BitVec.and_comm v 3#64, ← BitVec.and_assoc, and_not_and_self, BitVec.zero_and]
  have hsplit : v &&& ~~~3#64 ||| v &&& 3#64 = v := mergeBits_self 3#64 v
  have hsum : v.toNat = (v &&& ~~~3#64).toNat + (v &&& 3#64).toNat := by
    rw [← BitVec.toNat_add_of_and_eq_zero hdisjoint, BitVec.add_eq_or_of_and_eq_zero _ _ hdisjoint, hsplit]
  have hmode : (v &&& 3#64).toNat = v.toNat % 4 := by
    rw [BitVec.toNat_and]
    exact Nat.and_two_pow_sub_one_eq_mod v.toNat 2
  omega

/-- Settles O44: by `trapTarget_eq`, the addition wrapping. -/
theorem trapTargetIsBaseOrVectored : Obligations.TrapTargetIsBaseOrVectored := by
  intro tvec isIntr code
  refine ⟨fun hb hmode => ?_, fun h => ?_, trapTarget_mod_four tvec isIntr code⟩
  · rw [trapTarget_eq, if_pos ⟨hb, hmode⟩, BitVec.toNat_add, toNat_and_not_three, BitVec.toNat_ofNat, Nat.add_mod_mod]
  · have hdirect : ¬ (isIntr = true ∧ tvec.extractLsb' 0 2 = 1#2) := by
      rintro ⟨rfl, hmode⟩
      rcases h with hb | hne
      · cases hb
      · exact hne hmode
    rw [trapTarget_eq, if_neg hdirect, BitVec.add_zero, toNat_and_not_three]

end Sys2Proof.Machine
end

section
/-! PROOFS. Interrupts (60_exceptions.md R182 to R190): what the platform drives, the condition of each level, and the
interrupt a boundary takes. -/

namespace Sys2Proof.Machine

/-! ## What the platform drives -/

/-- The bits of `mip` that take the platform's levels: the three machine interrupts, and the platform's own (R183, D38). -/
theorem drivenMask_getLsbD (p : Params) {k : Nat} (hk : k < 64) :
    (intMask p &&& ~~~0x2222#64).getLsbD k = true ↔
      k = 3 ∨ k = 7 ∨ k = 11 ∨ (16 ≤ k ∧ p.platformIrqMask.getLsbD k = true) := by
  have hs : (~~~0x2222#64).getLsbD k = !decide (k = 1 ∨ k = 5 ∨ k = 9 ∨ k = 13) := by
    rw [← sIntMask_getLsbD hk, BitVec.getLsbD_not, decide_eq_true hk, Bool.true_and, sIntMask]
  rw [BitVec.getLsbD_and, intMask_getLsbD p hk, hs]
  simp only [Bool.and_eq_true, Bool.or_eq_true, decide_eq_true_eq, Bool.not_eq_true', decide_eq_false_iff_not]
  cases p.platformIrqMask.getLsbD k
  case false =>
    simp only [Bool.false_eq_true, and_false, or_false]
    omega
  case true =>
    simp only [and_true]
    omega

/-- `mip` bit by bit after the platform drives its inputs (R183). -/
theorem drivenMip_bit (s : State) (p : PlatformInput) {k : Nat} (hk : k < 64) :
    (drivenMip s p).getLsbD k =
      ((if k = 3 ∨ k = 7 ∨ k = 11 ∨ (16 ≤ k ∧ s.par.platformIrqMask.getLsbD k = true) then
          (p.msip && decide (k = 3) || p.mtip && decide (k = 7) || p.meip && decide (k = 11) ||
            p.irqs.getLsbD k && decide (16 ≤ k))
        else s.mip.getLsbD k) || p.setSsip && decide (k = 1)) := by
  have hhigh : ∀ j : Fin 64, (~~~0xFFFF#64).getLsbD j = decide (16 ≤ j.val) := by decide
  rw [drivenMip, BitVec.getLsbD_or, mergeBits_getLsbD _ _ _ _ hk]
  simp only [drivenMask_getLsbD s.par hk]
  simp only [BitVec.getLsbD_or, BitVec.getLsbD_and, flagAt_getLsbD _ _ _ hk, hhigh ⟨k, hk⟩]

/-- A platform interrupt that exists takes its level (D38). -/
theorem drivenMip_platform {s : State} (p : PlatformInput) {k : Nat} (h16 : 16 ≤ k)
    (hmask : s.par.platformIrqMask.getLsbD k = true) : (drivenMip s p).getLsbD k = p.irqs.getLsbD k := by
  rw [drivenMip_bit s p (BitVec.lt_of_getLsbD hmask), if_pos (.inr (.inr (.inr ⟨h16, hmask⟩)))]
  have h1 : k ≠ 1 := by omega
  have h3 : k ≠ 3 := by omega
  have h7 : k ≠ 7 := by omega
  have h11 : k ≠ 11 := by omega
  simp [h1, h3, h7, h11, h16]

/-- Every bit the platform does not drive keeps its value (R183). -/
theorem drivenMip_keeps {s : State} (p : PlatformInput) {k : Nat} (h1 : k ≠ 1) (h3 : k ≠ 3) (h7 : k ≠ 7) (h11 : k ≠ 11)
    (hplat : ¬ (16 ≤ k ∧ s.par.platformIrqMask.getLsbD k = true)) : (drivenMip s p).getLsbD k = s.mip.getLsbD k := by
  by_cases hk : k < 64
  · have hkeep : ¬ (k = 3 ∨ k = 7 ∨ k = 11 ∨ (16 ≤ k ∧ s.par.platformIrqMask.getLsbD k = true)) := by
      rintro (h | h | h | h)
      · exact h3 h
      · exact h7 h
      · exact h11 h
      · exact hplat h
    rw [drivenMip_bit s p hk, if_neg hkeep, decide_eq_false h1, Bool.and_false, Bool.or_false]
  · rw [BitVec.getLsbD_of_ge _ _ (Nat.le_of_not_lt hk), BitVec.getLsbD_of_ge _ _ (Nat.le_of_not_lt hk)]

theorem platformActs_of_nil {s : State} (h : s.platform = []) :
    (platformActs s).mip = s.mip ∧ (platformActs s).extSeip = s.extSeip := by
  simp [platformActs, h]

theorem platformActs_of_cons {s : State} {p : PlatformInput} {rest : List PlatformInput} (h : s.platform = p :: rest) :
    (platformActs s).mip = drivenMip s p ∧ (platformActs s).extSeip = p.extSeip := by
  simp [platformActs, h]

/-- Settles O11: the bits are those of `drivenMip`, by `drivenMip_bit`. -/
theorem platformDrivesOnlyItsBits : Obligations.PlatformDrivesOnlyItsBits := by
  intro s
  refine ⟨platformActs_time s, platformActs_frame s, fun hnil => ?_, fun p rest hcons => ?_⟩
  · obtain ⟨hmip, hext⟩ := platformActs_of_nil hnil
    exact ⟨hmip, hext, by rw [platformActs_platform, hnil, List.tail_nil]⟩
  · obtain ⟨hmip, hext⟩ := platformActs_of_cons hcons
    rw [hmip]
    refine ⟨?_, ?_, ?_, hext, ?_, fun k h16 hmask => drivenMip_platform p h16 hmask,
      fun k h1 h3 h7 h11 hplat => drivenMip_keeps p h1 h3 h7 h11 hplat, ?_⟩
    · simpa using drivenMip_bit s p (k := 3) (by decide)
    · simpa using drivenMip_bit s p (k := 7) (by decide)
    · simpa using drivenMip_bit s p (k := 11) (by decide)
    · simpa using drivenMip_bit s p (k := 1) (by decide)
    · rw [platformActs_platform, hcons, List.tail_cons]

/-! ## The conditions -/

theorem mTrap_iff (s : State) (i : Nat) : mTrap s i = true ↔
    (s.priv ≠ .M ∨ s.mstatus.mie = true) ∧
    (mieVal s).getLsbD i = true ∧ (mipRead s).getLsbD i = true ∧ (midelegVal s).getLsbD i = false := by
  simp [mTrap, and_assoc]

theorem sTrap_iff (s : State) (i : Nat) : sTrap s i = true ↔
    sGlobalEnable s = true ∧
    (midelegVal s).getLsbD i = true ∧ (sieVal s).getLsbD i = true ∧ (sipVal s).getLsbD i = true := by
  have hM : s.priv = .M → sGlobalEnable s = false := fun h => by simp [sGlobalEnable, h]
  have hpriv : (s.priv ≠ .M ∧ sGlobalEnable s = true) ↔ sGlobalEnable s = true :=
    and_iff_right_of_imp fun hg h => by simp [hM h] at hg
  simp only [sTrap, Bool.and_eq_true, bne_iff_ne, hpriv, and_assoc]

/-- The global enable of S-mode interrupts, mode by mode (R187). -/
theorem sGlobalEnable_iff (s : State) : sGlobalEnable s = true ↔
    s.priv ≠ .M ∧ (s.priv = .S → s.mstatus.sie = true) ∧
    (s.priv = .U → s.par.sieGatesU = true → s.mstatus.sie = true) := by
  unfold sGlobalEnable
  cases s.priv
  case U => cases s.par.sieGatesU <;> simp
  case S => simp
  case M => simp

/-- The machine interrupts 3, 7 and 11 are never delegated: their bits of `mideleg` are read-only 0 (R53, R185). -/
theorem midelegVal_machine (s : State) {i : Nat} (h : i = 3 ∨ i = 7 ∨ i = 11) : (midelegVal s).getLsbD i = false := by
  have hm : sIntMask.getLsbD i = false := by rcases h with rfl | rfl | rfl <;> decide
  rw [midelegVal, BitVec.getLsbD_and, hm, Bool.and_false]

/-- Settles O52: the condition is `mTrap_iff`; the machine interrupts have no bit in `mideleg`. -/
theorem machineInterruptCondition : Obligations.MachineInterruptCondition := by
  refine ⟨fun s i => ?_, fun s i hi => ⟨?_, ?_⟩⟩
  · have hglobal : (s.priv ≠ .M ∨ s.mstatus.mie = true) ↔ ((s.priv = .M ∧ s.mstatus.mie = true) ∨ s.priv ≠ .M) := by
      tauto
    rw [mTrap_iff, hglobal, and_left_comm (a := (mieVal s).getLsbD i = true)]
    rfl
  · refine Bool.eq_false_iff.2 fun hs => ?_
    obtain ⟨-, hdeleg, -⟩ := (sTrap_iff s i).1 hs
    exact Bool.noConfusion (hdeleg.symm.trans (midelegVal_machine s hi))
  · exact Bool.eq_false_iff.2 fun hd => Bool.noConfusion
      ((priv_and_bit_of_delegated hd).2.symm.trans (midelegVal_machine s hi))

/-- An interrupt whose bit is set in `mideleg` never causes an M-mode trap (R184). -/
theorem mTrap_of_delegated {s : State} {i : Nat} (h : (midelegVal s).getLsbD i = true) : mTrap s i = false := by
  refine Bool.eq_false_iff.2 fun hm => ?_
  obtain ⟨-, -, -, hdeleg⟩ := (mTrap_iff s i).1 hm
  exact Bool.noConfusion (h.symm.trans hdeleg)

theorem sTrap_of_machine {s : State} (h : s.priv = .M) (i : Nat) : sTrap s i = false :=
  Bool.eq_false_iff.2 fun hs => ((sGlobalEnable_iff s).1 ((sTrap_iff s i).1 hs).1).1 h

/-- A delegated interrupt that does not qualify for S-mode is not taken at all (R187). -/
theorem pendingInterrupt_ne_of_delegated {s : State} {i : Nat} (hd : (midelegVal s).getLsbD i = true)
    (hs : sTrap s i = false) : pendingInterrupt s ≠ some i := fun hp => by
  rcases qualifies_of_pendingInterrupt hp with hm | hs'
  · exact Bool.noConfusion (hm.symm.trans (mTrap_of_delegated hd))
  · exact Bool.noConfusion (hs'.symm.trans hs)

/-- Settles O53: the condition is `sTrap_iff` with `sGlobalEnable_iff`; what is delegated qualifies for S-mode or not at
all. -/
theorem supervisorInterruptCondition : Obligations.SupervisorInterruptCondition := by
  refine ⟨fun s i => ?_, fun s i hd => ⟨?_, fun hs => ?_, fun hM => ?_⟩⟩
  · rw [sTrap_iff, sGlobalEnable_iff]
    simp only [csrRead]
    tauto
  · have hd' : (midelegVal s).getLsbD i = true := hd
    simp only [csrRead, sipVal, sieVal, BitVec.getLsbD_and, hd', Bool.and_true]
  · exact ⟨mTrap_of_delegated hd, pendingInterrupt_ne_of_delegated hd hs⟩
  · exact pendingInterrupt_ne_of_delegated hd (sTrap_of_machine hM i)

/-! ## The interrupt chosen -/

/-- What `find?` finds comes no later than anything that satisfies the predicate. -/
theorem idxOf_le_of_find? {p : Nat → Bool} {l : List Nat} {i j : Nat} (h : l.find? p = some i) (hj : p j = true) :
    l.idxOf i ≤ l.idxOf j := by
  obtain ⟨hi, front, back, rfl, hfront⟩ := List.find?_eq_some_iff_append.1 h
  have hnotMem {k : Nat} (hk : p k = true) : k ∉ front := fun hmem => by simpa [hk] using hfront k hmem
  rw [List.idxOf_append_of_notMem (hnotMem hi), List.idxOf_append_of_notMem (hnotMem hj), List.idxOf_cons_self]
  exact Nat.le_add_right _ _

/-- The order lists every interrupt that exists (R182, R189). -/
theorem mem_interruptOrder_of_intMask {p : Params} {i : Nat} (h : (intMask p).getLsbD i = true) :
    i ∈ interruptOrder := by
  have hi : i < 64 := BitVec.lt_of_getLsbD h
  have hcodes : i = 1 ∨ i = 3 ∨ i = 5 ∨ i = 7 ∨ i = 9 ∨ i = 11 ∨ i = 13 ∨ 16 ≤ i := by
    simp only [intMask_getLsbD p hi, Bool.or_eq_true, decide_eq_true_eq, Bool.and_eq_true] at h
    omega
  have horder : ∀ j : Fin 64, (j.val = 1 ∨ j.val = 3 ∨ j.val = 5 ∨ j.val = 7 ∨ j.val = 9 ∨ j.val = 11 ∨ j.val = 13 ∨
      16 ≤ j.val) → j.val ∈ interruptOrder := by decide
  exact horder ⟨i, hi⟩ hcodes

theorem mem_interruptOrder_of_mTrap {s : State} {i : Nat} (h : mTrap s i = true) : i ∈ interruptOrder := by
  obtain ⟨-, hie, -⟩ := (mTrap_iff s i).1 h
  rw [mieVal, BitVec.getLsbD_and, Bool.and_eq_true] at hie
  exact mem_interruptOrder_of_intMask hie.2

theorem mem_interruptOrder_of_sTrap {s : State} {i : Nat} (h : sTrap s i = true) : i ∈ interruptOrder := by
  obtain ⟨-, hdeleg, -⟩ := (sTrap_iff s i).1 h
  exact mem_interruptOrder_of_intMask (intMask_of_midelegVal hdeleg)

/-- A search of the order that finds nothing leaves nothing out. -/
theorem eq_false_of_find?_interruptOrder {p : Nat → Bool} (h : interruptOrder.find? p = none)
    (hmem : ∀ j, p j = true → j ∈ interruptOrder) (j : Nat) : p j = false :=
  Bool.eq_false_iff.2 fun hj => List.find?_eq_none.1 h j (hmem j hj) hj

/-- The interrupt chosen is the first of the order for M-mode, or, where none qualifies for M-mode, the first for S-mode
(R188). -/
theorem pendingInterrupt_eq_some {s : State} {i : Nat} (h : pendingInterrupt s = some i) :
    interruptOrder.find? (mTrap s) = some i ∨
    (interruptOrder.find? (mTrap s) = none ∧ interruptOrder.find? (sTrap s) = some i) := by
  unfold pendingInterrupt at h
  split at h
  case h_1 hm => exact .inl (hm.trans h)
  case h_2 hm => exact .inr ⟨hm, h⟩

theorem pendingInterrupt_eq_none {s : State} (h : pendingInterrupt s = none) :
    interruptOrder.find? (mTrap s) = none ∧ interruptOrder.find? (sTrap s) = none := by
  unfold pendingInterrupt at h
  split at h
  case h_1 => cases h
  case h_2 hm => exact ⟨hm, h⟩

/-- Settles O54: the choice is a search of the order, which lists every interrupt that can qualify. -/
theorem pendingInterruptFollowsPriority : Obligations.PendingInterruptFollowsPriority := by
  intro s order
  have noM (h : interruptOrder.find? (mTrap s) = none) (j : Nat) : mTrap s j = false :=
    eq_false_of_find?_interruptOrder h (fun _ => mem_interruptOrder_of_mTrap) j
  have noS (h : interruptOrder.find? (sTrap s) = none) (j : Nat) : sTrap s j = false :=
    eq_false_of_find?_interruptOrder h (fun _ => mem_interruptOrder_of_sTrap) j
  refine ⟨fun i hp => ?_, fun i hp => ?_, fun hp j => ?_⟩
  · rcases pendingInterrupt_eq_some hp with hm | ⟨hnone, hs⟩
    · exact .inl ⟨List.find?_some hm, fun j hj => idxOf_le_of_find? hm hj⟩
    · exact .inr ⟨List.find?_some hs, noM hnone, fun j hj => idxOf_le_of_find? hs hj⟩
  · rcases pendingInterrupt_eq_some hp with hm | ⟨-, hs⟩
    · exact List.mem_of_find?_eq_some hm
    · exact List.mem_of_find?_eq_some hs
  · obtain ⟨hm, hs⟩ := pendingInterrupt_eq_none hp
    exact ⟨noM hm j, noS hs j⟩

/-- Settles O55: the boundary takes the trap of the interrupt chosen. -/
theorem qualifyingInterruptIsTaken : Obligations.QualifyingInterruptIsTaken := by
  intro s i hw hp
  rw [step_eq_takeTrap hw hp]
  exact takeTrap_takesInterrupt hp

end Sys2Proof.Machine
end

section
/-! PROOFS. Reset (70_reset_and_hazards.md R230, R237): the state it leaves, in which no interrupt qualifies and every
trap is a fault. -/

namespace Sys2Proof.Machine

/-! ## The state after reset -/

/-- In M-mode with `MIE` clear neither level's condition is met, whatever is pending, enabled and delegated (R184,
R187). -/
theorem pendingInterrupt_of_machine_disabled {s : State} (hM : s.priv = .M) (hmie : s.mstatus.mie = false) :
    pendingInterrupt s = none := by
  refine Option.eq_none_iff_forall_ne_some.2 fun k hk => ?_
  rcases qualifies_of_pendingInterrupt hk with hm | hs
  · obtain ⟨hpriv | hon, -⟩ := (mTrap_iff s k).1 hm
    · exact hpriv hM
    · exact Bool.noConfusion (hon.symm.trans hmie)
  · exact Bool.noConfusion (hs.symm.trans (sTrap_of_machine hM k))

/-- Settles O1: the registers are those of `State.resetWith`, which is in M-mode with `MIE` clear. -/
theorem resetLeavesMachineMode : Obligations.ResetLeavesMachineMode := fun _ _ _ _ =>
  ⟨rfl, rfl, rfl, rfl, rfl, rfl, rfl, rfl, rfl, rfl, pendingInterrupt_of_machine_disabled rfl rfl⟩

/-! ## A trap through an unwritten vector -/

theorem takeTrap_mtvecUnwritten {s : State} {b : Bool} {k : Nat} (hd : delegated s b k = false)
    (hv : s.mtvecWritten = false) (info : Word) : takeTrap b k info s = .fault .mtvecUnwritten := by
  simp [takeTrap, hd, hv]

theorem takeTrap_stvecUnwritten {s : State} {b : Bool} {k : Nat} (hd : delegated s b k = true)
    (hv : s.stvecWritten = false) (info : Word) : takeTrap b k info s = .fault .stvecUnwritten := by
  simp [takeTrap, hd, hv]

/-- An exception of M-mode is not delegated, so after reset it goes through the unwritten `mtvec` (R195, R237). -/
theorem raise_resetWith (p : Params) (e : Exception) (info : Word) :
    raise e info (State.resetWith p) = .fault .mtvecUnwritten :=
  takeTrap_mtvecUnwritten (delegated_of_machine rfl false (exceptionCode e)) rfl info

/-- Settles O45: the fault of each level is a branch of `takeTrap`, and ECALL and EBREAK raise an exception. -/
theorem unwrittenVectorIsAFault : Obligations.UnwrittenVectorIsAFault :=
  ⟨fun _ _ _ info => ⟨fun hd hv => takeTrap_mtvecUnwritten hd hv info, fun hd hv => takeTrap_stvecUnwritten hd hv info⟩,
    fun p => ⟨raise_resetWith p (ecallException .M) 0#64, raise_resetWith p .breakpoint p.resetVector⟩⟩

end Sys2Proof.Machine
end

section
/-! PROOFS. The word of an instruction decides what decodes to it, so a sample word is checked by assembling the
instruction it stands for (30_encoding.md R123, R124, R128). -/

namespace Sys2Proof

/-- The decoder answers an instruction for its own word and for no other. -/
theorem decodeWord_eq_some_iff {w : BitVec 32} {i : Instr} : decodeWord w = some i ↔ encode i = w :=
  ⟨encode_of_decodeWord, fun h => h ▸ decodeWord_encode i⟩

/-- Settles O3: each of the twelve words is the word its instruction assembles to. -/
theorem sampleWordsDecode : Obligations.SampleWordsDecode := by
  simp only [Obligations.SampleWordsDecode, decodeWord_eq_some_iff]
  decide

end Sys2Proof
end

section
/-! PROOFS. The state after reset is legal for every well-formed setting of the parameters, and the setting of
`State.reset` is well formed whatever its OPEN parameters are (70_reset_and_hazards.md R230, 10_state.md R51, R85). -/

namespace Sys2Proof

/-! ## Well-formed settings -/

/-- The six items of `Params.wellFormed` (R5). -/
theorem wellFormed_iff {p : Params} : p.wellFormed = true ↔
    p.nhpm ≤ 29 ∧ p.misaConsistent = true ∧ p.resetVectorAligned = true ∧
    p.mtvecBaseMask &&& 3#64 = 0#64 ∧ p.stvecBaseMask &&& 3#64 = 0#64 ∧ p.platformIrqMask &&& 0xFFFF#64 = 0#64 := by
  simp only [Params.wellFormed, Bool.and_eq_true, decide_eq_true_eq, beq_iff_eq, and_assoc]

/-! ## The setting of `State.reset` -/

/-- The bits of `misaValue`: those fixed, the letters but for C, and C (R51, D30). -/
theorem misaValue_getLsbD (c : Bool) (letters : BitVec 26) {k : Nat} (hk : k < 64) :
    (Config.misaValue c letters).getLsbD k =
      ((0x8000000000140120#64).getLsbD k || letters.getLsbD k && k != 2 || c && k == 2) := by
  have hmask : ∀ j : Fin 64, (~~~4#64).getLsbD j = (j.val != 2) := by decide
  have hc : ∀ j : Fin 64, (if c then 4#64 else 0#64).getLsbD j = (c && j.val == 2) := by cases c <;> decide
  simp only [Config.misaValue, BitVec.getLsbD_or, BitVec.getLsbD_and, BitVec.getLsbD_setWidth,
    BitVec.truncate_eq_setWidth, hmask ⟨k, hk⟩, hc ⟨k, hk⟩, hk, decide_true, Bool.true_and]

/-- The letters reach no bit of `MXL`. -/
theorem misaValue_mxl (c : Bool) (letters : BitVec 26) : (Config.misaValue c letters).extractLsb' 62 2 = 2#2 := by
  ext k hk
  rw [BitVec.getElem_extractLsb', misaValue_getLsbD _ _ (by omega)]
  interval_cases k <;> simp

/-- `misaValue` keeps the consistency of R51 and D30 whatever the letters are. -/
theorem misaConsistent_of_misaValue {p : Params} {letters : BitVec 26} (h : p.misa = Config.misaValue p.hasC letters) :
    p.misaConsistent = true := by
  simp only [Params.misaConsistent, h, misaValue_mxl, misaValue_getLsbD, Nat.reduceLT]
  simp

/-- `0x80000000` is aligned, with and without `HAS_C`. -/
theorem resetVectorAligned_of_config {p : Params} (h : p.resetVector = Config.resetVector) :
    p.resetVectorAligned = true := by
  cases hc : p.hasC <;> simp [Params.resetVectorAligned, h, hc, Config.resetVector]

theorem config_params_wellFormed : Config.params.wellFormed = true :=
  wellFormed_iff.2 ⟨Nat.le_of_lt_succ Config.hpmCount.isLt, misaConsistent_of_misaValue rfl,
    resetVectorAligned_of_config rfl, rfl, rfl, rfl⟩

end Sys2Proof

namespace Sys2Proof.Machine

/-! ## The registers of the state after reset -/

/-- The reset vector of a well-formed setting is a legal `pc` (R14, R230). -/
theorem resetVector_and_epcLow {p : Params} (h : p.wellFormed = true) : p.resetVector &&& epcLow p = 0#64 := by
  obtain ⟨-, -, haligned, -⟩ := wellFormed_iff.1 h
  exact beq_iff_eq.1 haligned

/-- A vector made legal has `MODE` 0 or 1 (R55). -/
theorem legalVector_mode (v : Word) : (legalVector v).getLsbD 1 = false := by
  simp [legalVector]

theorem resetWith_legal {p : Params} (h : p.wellFormed = true) : Legal (State.resetWith p) where
  params := h
  memory := reset_mem_wf p
  pcAligned := resetVector_and_epcLow h
  medeleg := BitVec.zero_and
  mideleg := BitVec.zero_and
  mie := BitVec.zero_and
  mip := BitVec.zero_and
  inhibit := BitVec.zero_and
  mtvecMode := legalVector_mode Config.mtvecAtReset
  stvecMode := legalVector_mode Config.stvecAtReset
  mepc := BitVec.zero_and
  sepc := BitVec.zero_and
  endian := fun _ => ⟨rfl, rfl, rfl⟩

/-- Settles O2: well-formedness aligns the reset vector, every other register is fixed, and `State.reset` has a
well-formed setting. -/
theorem resetIsLegal : Obligations.ResetIsLegal :=
  ⟨fun _ => resetWith_legal, resetWith_legal config_params_wellFormed⟩

end Sys2Proof.Machine
end
